-- ==== Sys2Proof/Word.lean ====
section
/-! DEFINITION. The words of the machine (00_scope.md R14, R16; 20_memory.md R60). -/

namespace Sys2Proof

/-- A message word: 32 bits, bit 31 most significant (R14, R90). -/
abbrev Word := BitVec 32

/-- A binary32 pattern: an element of sample memory or of the LUT (R16, R60). -/
abbrev Sample := BitVec 32

/-- The handle of a sample buffer (R60). -/
abbrev Handle := BitVec 16

/-- The selector of a completion callback (R37, R93). -/
abbrev Callback := BitVec 8

end Sys2Proof
end

