-- ==== Sys2Proof/Machine/Binary32.lean ====
section
/-! DEFINITION. binary32 arithmetic (00_scope.md R16, 41_worker.md R141): convert to exact integers, compute exactly,
round once to nearest with ties to even, keep subnormals, raise nothing. The layout is general knowledge (G1, log 15).

A finite value is a whole number of units of `2^-149`, the smallest subnormal. -/

namespace Sys2Proof.Machine.Binary32

/-- The sign bit. -/
def sign (a : Sample) : Bool := a.msb

/-- The biased exponent, bits 30:23. -/
def expo (a : Sample) : Nat := a.toNat / 2 ^ 23 % 2 ^ 8

/-- The fraction, bits 22:0. -/
def frac (a : Sample) : Nat := a.toNat % 2 ^ 23

/-- A NaN: exponent 255 with a non-zero fraction. -/
def isNaN (a : Sample) : Bool := expo a == 255 && frac a != 0

/-- An infinity: exponent 255 with a zero fraction. -/
def isInf (a : Sample) : Bool := expo a == 255 && frac a == 0

/-- Neither a NaN nor an infinity. -/
def isFinite (a : Sample) : Bool := expo a != 255

/-- The magnitude of a finite value, in units of `2^-149`. -/
def mag (a : Sample) : Nat := if expo a = 0 then frac a else (2 ^ 23 + frac a) * 2 ^ (expo a - 1)

/-- A finite value, in units of `2^-149`. -/
def units (a : Sample) : Int := if sign a then -(mag a : Int) else (mag a : Int)

/-- The pattern of a sign and a magnitude pattern (bits 30:0). -/
def pack (s : Bool) (m : Nat) : Sample := BitVec.ofNat 32 ((if s then 2 ^ 31 else 0) + m)

/-- The magnitude pattern of infinity. -/
def infMag : Nat := 255 * 2 ^ 23

/-- `m / 2^t`, rounded to nearest, ties to even. -/
def shiftRound (m t : Nat) : Nat :=
  let q := m / 2 ^ t
  let r := m % 2 ^ t
  if 2 ^ t < 2 * r ∨ (2 * r = 2 ^ t ∧ q % 2 = 1) then q + 1 else q

/-- How many low bits of `m` a 24-bit significand drops, and at least the `k` bits below one unit. -/
def dropped (m k : Nat) : Nat := max k (Nat.log2 m + 1 - 24)

/-- The magnitude pattern of the value `m * 2^-k` units, rounded once (R141 (b), (d), (e)): the exponent field and the
fraction join up, so a carry out of the significand is the next exponent, and at the top an infinity. -/
def roundMag (m k : Nat) : Nat := min infMag ((dropped m k - k) * 2 ^ 23 + shiftRound m (dropped m k))

/-- The sign changed; nothing else (how `fsub` is an addition). -/
def neg (a : Sample) : Sample := a ^^^ 0x80000000#32

/-- `fadd(a, b)`; `nan` is the NaN drawn for this operation (R141). -/
def fadd (nan a b : Sample) : Sample :=
  if isNaN a || isNaN b then nan
  else if isInf a then (if isInf b && (sign a != sign b) then nan else a)
  else if isInf b then b
  else if units a + units b = 0 then pack (sign a && sign b) 0
  else pack (decide (units a + units b < 0)) (roundMag (units a + units b).natAbs 0)

/-- `fsub(a, b)` (R141). -/
def fsub (nan a b : Sample) : Sample := fadd nan a (neg b)

/-- `fmul(a, b)` (R141); the exact product of two magnitudes is in units of `2^-298`. -/
def fmul (nan a b : Sample) : Sample :=
  if isNaN a || isNaN b then nan
  else if isInf a || isInf b then
    (if (isFinite a && mag a == 0) || (isFinite b && mag b == 0) then nan else pack (sign a != sign b) infMag)
  else pack (sign a != sign b) (roundMag (mag a * mag b) 149)

/-- A NaN of the given sign, its fraction one more than `f` (R141 (g)). -/
def mkNaN (s : Bool) (f : Fin 8388607) : Sample := pack s (infMag + f.val + 1)

end Sys2Proof.Machine.Binary32
end

