-- ==== Sys2Proof/Config.lean ====
section
/-! DEFINITION. What an implementation fixes and the spec leaves OPEN (00_scope.md R11, R12), and the free
values. Each is an opaque constant without a body: nothing can evaluate it or prove a value of it. -/

namespace Sys2Proof

/-- `NU_MAX` less 2 (R11: `2 ≤ NU_MAX ≤ 31`). -/
opaque Config.nuMaxAboveTwo : Fin 30

/-- `NU_MAX`, the largest `nu` the LUT can hold (R11). -/
def Config.nuMax : Nat := Config.nuMaxAboveTwo.val + 2

/-- `log2 NT_MAX` less 1 (R11: `NT_MAX` is a power of two, `2 ≤ NT_MAX ≤ 2^15`). -/
opaque Config.ntMaxLogAboveOne : Fin 15

/-- `NT_MAX`, the number of physical workers (R11). -/
def Config.ntMax : Nat := 2 ^ (Config.ntMaxLogAboveOne.val + 1)

/-- The two orders a platform may store an element's bytes in (20_memory.md R67). -/
inductive ByteOrder where
  | little
  | big
deriving DecidableEq, Repr, Inhabited

/-- `BYTE_ORDER`, left OPEN; no rule reads it and nothing in the model does (R67, log 33). -/
opaque Config.byteOrder : ByteOrder

/-- `TwGen(nu, i)`, the pair stored at index `i` of the tables: a configuration field, a total function of `nu` and `i`
(R12, 40_lut_bitrev.md R124). The model assumes nothing of it; this spec's value for it is `Machine.Twiddle.twGen` (log 12). -/
opaque Config.twGen : Nat → Nat → Sample × Sample

/-- `k >> nu1` for a negative shift count, which no rule defines (R15, log 36). -/
opaque Config.shiftByNegative : Nat → Int → Nat

/-- The sign of the `t`-th NaN drawn (`NaNDraw`, R12, 41_worker.md R141 (g)). -/
opaque Config.nanSign : Nat → Bool

/-- The fraction of the `t`-th NaN drawn, less 1: a NaN's fraction is any value from 1 to `2^23 - 1`. -/
opaque Config.nanFraction : Nat → Fin 8388607

/-- The `t`-th element value drawn when the host breaks the ownership rule (20_memory.md R81). -/
opaque Config.freeSample : Nat → Sample

/-- The `t`-th value of a `w`-bit register that the spec calls unspecified (10_state.md R48). -/
opaque Config.freeBits : Nat → (w : Nat) → BitVec w

/-- What entry `p` of `cosTab` holds while it is unspecified (10_state.md R48). -/
opaque Config.unsetCos : Nat → Sample

/-- What entry `p` of `sinTab` holds while it is unspecified (10_state.md R48). -/
opaque Config.unsetSin : Nat → Sample

/-- Which enabled move is taken when the schedule names none (00_scope.md R13: any interleaving). -/
opaque Config.choice : Nat → Nat

end Sys2Proof
end

