-- ==== Sys2Proof/Syntax.lean ====
section
/-! DEFINITION. The nine messages of the engine (30_encoding.md R90 to R101): one constructor per row of
spec/opcode_table.json. -/

namespace Sys2Proof

/-- A message word, taken apart. -/
inductive Instr where
  /-- CONFIG `nu`, `hint` (R92). -/
  | config (nu : Nat) (hint : Int)
  /-- SUBMIT `buf`, `cb` (R93). -/
  | submit (buf : Handle) (cb : Callback)
  /-- ISBUSY (R94). -/
  | isbusy
  /-- SHUTDOWN (R94). -/
  | shutdown
  /-- STRIDED `init`, `buf` (R95). -/
  | strided (init : Bool) (buf : Handle)
  /-- LOCAL, the document's LocalRemainder (R96). -/
  | localRemainder
  /-- ACK `id` (R97). -/
  | ack (id : Nat)
  /-- DONE `cb`, `buf` (R98). -/
  | done (cb : Callback) (buf : Handle)
  /-- RSP `busy`, `status` (R99). -/
  | rsp (busy : Bool) (status : Nat)
deriving DecidableEq, Repr

end Sys2Proof
end

