-- ==== Sys2Proof/WellFormed.lean ====
section
/-! DEFINITION. Which instructions a message word can express: every operand fits its field (30_encoding.md R92,
R97, R99). Operands held as bit vectors of the field's width fit by their type. -/

namespace Sys2Proof

/-- Every operand lies in the range its field can hold. -/
def Instr.wf : Instr → Bool
  | .config nu hint => decide (nu < 32) && decide (-32768 ≤ hint) && decide (hint ≤ 32767)
  | .submit _ _ => true
  | .isbusy => true
  | .shutdown => true
  | .strided _ _ => true
  | .localRemainder => true
  | .ack id => decide (id < 65536)
  | .done _ _ => true
  | .rsp _ status => decide (status < 256)

end Sys2Proof
end

