-- ==== Sys2Proof/Decode.lean ====
section
/-! DEFINITION. Decoding and encoding of message words (30_encoding.md R90 to R102), total, rejecting by name;
the ports a message may travel on (R90). -/

namespace Sys2Proof

/-- `W[hi:lo]`: the unsigned integer made of bits `hi` down to `lo` (00_scope.md R14). -/
def field (w : Word) (hi lo : Nat) : Nat := w.toNat / 2 ^ lo % 2 ^ (hi + 1 - lo)

/-- `sext_16`: a 16-bit value read as two's complement (R14, R92). -/
def sext16 (v : Nat) : Int := if v < 32768 then (v : Int) else (v : Int) - 65536

/-- Why a word is no message. -/
inductive Reject where
  /-- `op` is one of 0x0, 0x5, 0x6, 0x7, 0xB, 0xD, 0xF (R101). -/
  | reservedOpcode
  /-- A bit that the format does not name is set (R91, R102). -/
  | reservedBits
deriving DecidableEq, Repr

/-- What a word decodes to. -/
inductive Decoded where
  | instr (i : Instr)
  | reject (r : Reject)
deriving DecidableEq, Repr

/-- The message a word stands for (R92 to R101). -/
def decode (w : Word) : Decoded :=
  if field w 31 28 = 0x1 then
    if field w 22 16 = 0 then .instr (.config (field w 27 23) (sext16 (field w 15 0))) else .reject .reservedBits
  else if field w 31 28 = 0x2 then
    if field w 27 24 = 0 then .instr (.submit (BitVec.ofNat 16 (field w 15 0)) (BitVec.ofNat 8 (field w 23 16)))
    else .reject .reservedBits
  else if field w 31 28 = 0x3 then
    if field w 27 0 = 0 then .instr .isbusy else .reject .reservedBits
  else if field w 31 28 = 0x4 then
    if field w 27 0 = 0 then .instr .shutdown else .reject .reservedBits
  else if field w 31 28 = 0x8 then
    if field w 26 16 = 0 then .instr (.strided (field w 27 27 == 1) (BitVec.ofNat 16 (field w 15 0)))
    else .reject .reservedBits
  else if field w 31 28 = 0x9 then
    if field w 27 0 = 0 then .instr .localRemainder else .reject .reservedBits
  else if field w 31 28 = 0xA then
    if field w 27 16 = 0 then .instr (.ack (field w 15 0)) else .reject .reservedBits
  else if field w 31 28 = 0xC then
    if field w 27 24 = 0 then .instr (.done (BitVec.ofNat 8 (field w 23 16)) (BitVec.ofNat 16 (field w 15 0)))
    else .reject .reservedBits
  else if field w 31 28 = 0xE then
    if field w 27 9 = 0 then .instr (.rsp (field w 8 8 == 1) (field w 7 0)) else .reject .reservedBits
  else .reject .reservedOpcode

/-- One row of the opcode table: the row's mnemonic, and the two numbers it is matched by. -/
structure OpcodeRow where
  mnemonic : String
  pattern : Word
  mask : Word
deriving DecidableEq, Repr

/-- The `match` and `mask` numbers of R92 to R99, as spec/opcode_table.json lists them. -/
def opcodeRows : List OpcodeRow :=
  [ ⟨"CONFIG", 0x10000000#32, 0xF07F0000#32⟩, ⟨"SUBMIT", 0x20000000#32, 0xFF000000#32⟩,
    ⟨"ISBUSY", 0x30000000#32, 0xFFFFFFFF#32⟩, ⟨"SHUTDOWN", 0x40000000#32, 0xFFFFFFFF#32⟩,
    ⟨"STRIDED", 0x80000000#32, 0xF7FF0000#32⟩, ⟨"LOCAL", 0x90000000#32, 0xFFFFFFFF#32⟩,
    ⟨"ACK", 0xA0000000#32, 0xFFFF0000#32⟩, ⟨"DONE", 0xC0000000#32, 0xFF000000#32⟩,
    ⟨"RSP", 0xE0000000#32, 0xFFFFFE00#32⟩ ]

/-- Whether a word matches a row. -/
def OpcodeRow.accepts (r : OpcodeRow) (w : Word) : Bool := (w &&& r.mask) == r.pattern

/-- The mnemonic of the row an instruction stands for. -/
def Instr.mnemonic : Instr → String
  | .config _ _ => "CONFIG"
  | .submit _ _ => "SUBMIT"
  | .isbusy => "ISBUSY"
  | .shutdown => "SHUTDOWN"
  | .strided _ _ => "STRIDED"
  | .localRemainder => "LOCAL"
  | .ack _ => "ACK"
  | .done _ _ => "DONE"
  | .rsp _ _ => "RSP"

/-- The opcode of an instruction (R101). -/
def Instr.opcode : Instr → Nat
  | .config _ _ => 0x1
  | .submit _ _ => 0x2
  | .isbusy => 0x3
  | .shutdown => 0x4
  | .strided _ _ => 0x8
  | .localRemainder => 0x9
  | .ack _ => 0xA
  | .done _ _ => 0xC
  | .rsp _ _ => 0xE

/-- The reserved bits of an instruction's format, from `hi` down to `lo` (R91). -/
def Instr.reserved : Instr → Nat × Nat
  | .config _ _ => (22, 16)
  | .submit _ _ => (27, 24)
  | .isbusy => (27, 0)
  | .shutdown => (27, 0)
  | .strided _ _ => (26, 16)
  | .localRemainder => (27, 0)
  | .ack _ => (27, 16)
  | .done _ _ => (27, 24)
  | .rsp _ _ => (27, 9)

/-- One bit as a number. -/
def bitOf (b : Bool) : Nat := if b then 1 else 0

/-- The word of an instruction, written from the format tables of R92 to R99. -/
def encode : Instr → Word
  | .config nu hint => BitVec.ofNat 32 (0x1 * 2 ^ 28 + nu * 2 ^ 23 + (hint % 65536).toNat)
  | .submit buf cb => BitVec.ofNat 32 (0x2 * 2 ^ 28 + cb.toNat * 2 ^ 16 + buf.toNat)
  | .isbusy => BitVec.ofNat 32 (0x3 * 2 ^ 28)
  | .shutdown => BitVec.ofNat 32 (0x4 * 2 ^ 28)
  | .strided init buf => BitVec.ofNat 32 (0x8 * 2 ^ 28 + bitOf init * 2 ^ 27 + buf.toNat)
  | .localRemainder => BitVec.ofNat 32 (0x9 * 2 ^ 28)
  | .ack id => BitVec.ofNat 32 (0xA * 2 ^ 28 + id)
  | .done cb buf => BitVec.ofNat 32 (0xC * 2 ^ 28 + cb.toNat * 2 ^ 16 + buf.toNat)
  | .rsp busy status => BitVec.ofNat 32 (0xE * 2 ^ 28 + bitOf busy * 2 ^ 8 + status)

/-- The five ports (R90). -/
inductive Port where
  | hostCommand
  | hostResponse
  | hostEvent
  | workerCommand
  | report
deriving DecidableEq, Repr

/-- The one port each message is legal on (R90, R101). -/
def Instr.port : Instr → Port
  | .config _ _ => .hostCommand
  | .submit _ _ => .hostCommand
  | .isbusy => .hostCommand
  | .shutdown => .hostCommand
  | .strided _ _ => .workerCommand
  | .localRemainder => .workerCommand
  | .ack _ => .report
  | .done _ _ => .hostEvent
  | .rsp _ _ => .hostResponse

/-- The port a word is put on to be taken next: the one its opcode belongs to, else the host command port. -/
def portOfWord (w : Word) : Port :=
  if field w 31 28 = 0x8 ∨ field w 31 28 = 0x9 then .workerCommand
  else if field w 31 28 = 0xA then .report
  else if field w 31 28 = 0xC then .hostEvent
  else if field w 31 28 = 0xE then .hostResponse
  else .hostCommand

/-- The 32-bit word of a table word: bit 0 least significant, every bit above `nbits` 0. -/
def tableWord (nbits w : Nat) : Word := BitVec.ofNat 32 (w % 2 ^ nbits)

/-- What the decoder reads from a word numbered as the opcode table numbers it. -/
def decodeTableWord (nbits w : Nat) : Option Instr :=
  match decode (tableWord nbits w) with
  | .instr i => some i
  | .reject _ => none

end Sys2Proof
end

