-- ==== Sys2Proof/Machine/State.lean ====
section
/-! DEFINITION. The state of the engine, of the channels and of the host's side of them (10_state.md; 20_memory.md
section 1), and the state at power-on (10_state.md R48). Counts and indices are unbounded numbers, as R14 and the
head of 10_state.md allow; the spec's widths are in INVENTORY.md (log 11). -/

namespace Sys2Proof.Machine

/-- `ST`, the coordinator's state (R30). -/
inductive CoordState where
  /-- UNCONF: no engine instance exists. -/
  | unconf
  /-- IDLE. -/
  | idle
  /-- DIST, the document's Distributed(phase). -/
  | dist
  /-- LOCAL. -/
  | localPhase
  /-- REORD, the document's Reordering. -/
  | reord
deriving DecidableEq, Repr

/-- Whether a worker waits for a command (R26). -/
inductive Run where
  | halted
  | running
deriving DecidableEq, Repr

/-- One atom of a worker command, in the canonical order of 41_worker.md R150 and R153. -/
inductive Work where
  /-- One butterfly, at first leg `k` (41_worker.md R140). -/
  | bfly (k : Nat)
  /-- The end of a stage: `nu1` less one, `n2` halved, `stagesCompleted` plus one. -/
  | endStage
deriving DecidableEq, Repr

/-- A worker descriptor (R20 to R26). The `id` of R21 is the descriptor's index and is not stored. -/
structure Worker where
  /-- `nu1` (R22). -/
  nu1 : Int
  /-- `n2` (R23). -/
  n2 : Nat
  /-- `stagesCompleted` (R24). -/
  stagesCompleted : Nat
  /-- `buf` (R25). -/
  buf : Handle
  /-- `run` (R26). -/
  run : Run
  /-- What is left of the command being executed: the worker's position in it (R26, R41). -/
  todo : List Work
deriving DecidableEq, Repr

/-- A descriptor at power-on (R48): HALTED; the other fields have no value in the spec (log 6). -/
def Worker.powerOn : Worker :=
  { nu1 := -1, n2 := 0, stagesCompleted := 0, buf := 0#16, run := .halted, todo := [] }

/-- The two sequences of a sample buffer; their lengths are `lenR` and `lenI` (20_memory.md R60). -/
structure Buffer where
  real : List Sample
  imag : List Sample
deriving DecidableEq, Repr

/-- Which of the two sequences (R60). -/
inductive Part where
  | real
  | imag
deriving DecidableEq, Repr

/-- An element address `(h, REAL|IMAG, i)` (00_scope.md R17, 20_memory.md R60). -/
structure Addr where
  handle : Handle
  part : Part
  idx : Nat
deriving DecidableEq, Repr

/-- The host's table `Buf` from handles to buffers (R60): handles rising, no entry with two empty sequences, since
an unlisted handle is bound to nothing and has both lengths 0. -/
abbrev Memory := List (Nat × Buffer)

/-- What the host does next (20_memory.md R60, R62, R81; 30_encoding.md R104, R106). -/
inductive HostAct where
  /-- Present a word on the host command port. -/
  | word (w : Word)
  /-- `WAIT DONE`: wait for a completion notification and take it. -/
  | waitDone
  /-- Bind a buffer to a handle (two empty sequences unbind it). -/
  | bind (h : Handle) (b : Buffer)
  /-- Write an element. -/
  | write (a : Addr) (v : Sample)
  /-- Read an element. -/
  | read (a : Addr)
deriving DecidableEq, Repr

/-- What the host has been told. -/
inductive HostNote where
  /-- The RSP word of a command, handed over in the command's own step (30_encoding.md R99, R104; R46). -/
  | response (w : Word)
  /-- A completion taken: callback `cb` is invoked with buffer `buf` (R98, 60_exceptions.md R230). -/
  | completion (cb : Callback) (buf : Handle)
  /-- An element read. -/
  | datum (v : Sample)
deriving DecidableEq, Repr

/-- Which agent makes which step (00_scope.md R13; 42_coordinator.md R170; 41_worker.md R148). -/
inductive Move where
  /-- The host does the first of its actions; a command word is one coordinator step with its response. -/
  | host
  /-- Worker `w` executes the command on its channel, receipt, butterflies and report, in one step. -/
  | command (w : Nat)
  /-- Worker `w` only receives the command on its channel. -/
  | receive (w : Nat)
  /-- Worker `w` does the next atom of its command. -/
  | work (w : Nat)
  /-- Worker `w` reports that its command is done. -/
  | report (w : Nat)
  /-- The coordinator takes the `n`-th pending report. -/
  | collect (n : Nat)
  /-- The coordinator's reorder step. -/
  | reorder
  /-- The coordinator's notify step. -/
  | notify
  /-- The coordinator's return to idle. -/
  | toIdle
  /-- The host takes a word that stands on the response port; no step of the engine leaves one there (R46, log 26). -/
  | response
deriving DecidableEq, Repr

/-- The whole state. -/
structure State where
  /-- `ST` (R30). -/
  st : CoordState
  /-- `BUSY` (R31). -/
  busy : Bool
  /-- `PHASE` (R32). -/
  phase : Nat
  /-- `SUL` (R33). -/
  sul : Nat
  /-- `PACK` (R34). -/
  pack : Nat
  /-- `NU` (R35). -/
  nu : Nat
  /-- `NT` (R35). -/
  nt : Nat
  /-- `RK` (R36). -/
  rk : Nat
  /-- `NOTIFIED` (R36). -/
  notified : Bool
  /-- `BUF`, or no value (R37). -/
  buf : Option Handle
  /-- `CB` (R37). -/
  cb : Callback
  /-- The worker descriptors, in the order of their ids (R20). -/
  workers : List Worker
  /-- `cosTab`, the entries defined (R42). -/
  cosTab : List Sample
  /-- `sinTab`, the entries defined (R42). -/
  sinTab : List Sample
  /-- The sample memory (R43). -/
  mem : Memory
  /-- `cmdq[i]` (R44). -/
  cmdq : List (List Word)
  /-- `ackq` (R45). -/
  ackq : List Word
  /-- `evq` (R46). -/
  evq : List Word
  /-- The host response port between two steps (30_encoding.md R90). A response is not queued: the step of its command hands
  it to the host (R46, 30_encoding.md R104), so the engine leaves nothing here; `withFetchWord` alone fills it (log 26). -/
  rsp : Option Word
  /-- The host's actions still to come. -/
  hostq : List HostAct
  /-- What the host has been told, oldest first. -/
  seen : List HostNote
  /-- The model's own: the moves to be made next. -/
  sched : List Move
  /-- The model's own: the worker whose command is being executed. -/
  acting : Nat
  /-- The model's own: how many free values have been used. -/
  draws : Nat
  /-- The model's own: the host has written the lent buffer in this transform (20_memory.md R81). -/
  spoiled : Bool
deriving DecidableEq, Repr

/-- Why a run stops. None of these is reached by a host that keeps 20_memory.md R62 and 70_reset_and_hazards.md R256. -/
inductive Fault where
  /-- Raised by SHUTDOWN with `BUSY = 1` (43_lifecycle.md R206, 93_implementation_defined.md U1). Safe. -/
  | shutdownInFlight
  /-- Raised by a butterfly or a reorder step on an element address that does not exist (20_memory.md R60). Safe. -/
  | noSuchElement
  /-- Raised by a coordinator step that uses `BUF` while it holds no value (10_state.md R37, R48). Safe. -/
  | noBufferHeld
  /-- Raised by a host read or write of an element that does not exist (20_memory.md R60). Safe. -/
  | hostOutOfRange
  /-- Raised by the host binding a handle that is lent to the engine (20_memory.md R62, log 20). Safe. -/
  | lentBufferRebound
deriving DecidableEq, Repr

/-- Why the model gives a case no meaning. -/
inductive Refusal where
  /-- An instruction whose meaning is not written yet. Safe. -/
  | notModelled (mnemonic : String)
  /-- A malformed or foreign word on an internal channel (30_encoding.md R103); raised by the step. Safe. -/
  | strayWord (w : Word)
  /-- A report taken while none is awaited (42_coordinator.md R177, 30_encoding.md R103); raised by ACK. Safe. -/
  | strayReport
  /-- A worker count that breaks the invariant (93_implementation_defined.md U2, U3); raised by STRIDED and LOCAL. Safe. -/
  | badWorkerCount
deriving DecidableEq, Repr

/-- Power-on (10_state.md R48, 70_reset_and_hazards.md R250): no engine instance, workers HALTED, channels empty. The
registers the spec gives no value hold the smallest legal value of R38, or the resting value of R22 and R23, or zero (log 6). DESIGN CHOICE (log 34): no handle is
bound; what sample memory holds at power-on, and which handles are bound, the spec leaves open. The host's and the model's own
fields are empty, zero or false (log 22). -/
def State.reset : State :=
  { st := .unconf, busy := false, phase := 2, sul := 1, pack := 0, nu := 2, nt := 2, rk := 0, notified := false,
    buf := none, cb := 0#8, workers := [], cosTab := [], sinTab := [], mem := [], cmdq := [], ackq := [], evq := [],
    rsp := none, hostq := [], seen := [], sched := [], acting := 0, draws := 0, spoiled := false }

end Sys2Proof.Machine
end

