-- ==== Sys2Proof/Machine/Operands.lean ====
section
/-! DEFINITION. The integer operations on operands and indices (00_scope.md R15; 40_lut_bitrev.md R120; 41_worker.md
R146, R147, R150, R153; 43_lifecycle.md R201). -/

namespace Sys2Proof.Machine

/-- `a / b` rounded up. -/
def ceilDiv (a b : Nat) : Nat := (a + b - 1) / b

/-- The loop of R201 that doubles `t` while it is below `h`, at most `fuel` times. -/
def doubleUntil (h : Int) : Nat → Nat → Nat
  | 0, t => t
  | fuel + 1, t => if (t : Int) < h then doubleUntil h fuel (2 * t) else t

/-- `ceilpow2(h)`: the smallest power of two that is at least 2 and at least `h` (R15, R201). -/
def ceilpow2 (h : Int) : Nat := doubleUntil h h.toNat 2

/-- `bitrev(i, nu)`: bit `b` of `i` becomes bit `nu - 1 - b` (R120). -/
def bitrev (i : Nat) : Nat → Nat
  | 0 => 0
  | nu + 1 => i % 2 * 2 ^ nu + bitrev (i / 2) nu

/-- `k >> nu1` (R15), the shift of the twiddle index (40_lut_bitrev.md R126). R15 and R126 define it for `nu1 ≥ 0`; by a
negative count, which no rule reads (10_state.md R22), the result is a free value: DESIGN CHOICE, log 36. -/
def shiftRight (k : Nat) (nu1 : Int) : Nat := if 0 ≤ nu1 then k / 2 ^ nu1.toNat else Config.shiftByNegative k nu1

/-- The offsets `w, w + nt, w + 2·nt, …` below `n2` (R150). -/
def strideOffsets (w nt n2 : Nat) : List Nat := (List.range (ceilDiv (n2 - w) nt)).map (fun m => w + m * nt)

/-- The first legs worker `w` visits in one STRIDED command, groups ascending, offsets ascending (R150). With `n2 = 0` the
number of groups is unstated, and none has an offset below `n2`: no leg is visited, whatever the number (log 35). Where
`2·n2` does not divide `N`, which 10_state.md R28 and R147 exclude, the spec gives the number of groups no value and the model
takes the quotient rounded down: DESIGN CHOICE, log 37. -/
def stridedLegs (size nt n2 w : Nat) : List Nat :=
  (List.range (size / (2 * n2))).flatMap (fun g => (strideOffsets w nt n2).map (fun j => g * (2 * n2) + j))

/-- The first legs of one stage of LOCAL in the block of `size` elements from `base`, ascending (R153). -/
def blockLegs (base size n2 : Nat) : List Nat :=
  (List.range (ceilDiv size (2 * n2))).flatMap (fun g => (List.range n2).map (fun t => base + g * (2 * n2) + t))

/-- The atoms of one stage: its butterflies, then its end. -/
def stageWork (legs : List Nat) : List Work := legs.map Work.bfly ++ [Work.endStage]

/-- All remaining stages of LOCAL on a block, from span `n2` down to 1 (R153); `fuel` bounds the number of stages. -/
def localStages (base size : Nat) : Nat → Nat → List Work
  | 0, _ => []
  | fuel + 1, n2 => if n2 = 0 then [] else stageWork (blockLegs base size n2) ++ localStages base size fuel (n2 / 2)

/-- The work of a LOCAL command of worker `w` that holds span `n2` (R153): `base = w·n2·2`, `size = n2·2`. -/
def localWork (w n2 : Nat) : List Work := localStages (w * n2 * 2) (n2 * 2) n2 n2

/-- `nThreads` is a power of two, at least 2 and at most `N/2` (00_scope.md R9). -/
def workerCountOk (nu nt : Nat) : Bool := decide (2 ≤ nt) && nt == 2 ^ Nat.log2 nt && decide (nt ≤ 2 ^ nu / 2)

end Sys2Proof.Machine
end

