-- ==== Sys2Proof/Machine/Flags.lean ====
section
/-! DEFINITION. `BUSY`, the engine's only status flag (10_state.md R31), and the status codes of responses
(60_exceptions.md R220). No other flag exists; the arithmetic sets none (41_worker.md R141 (f), 60_exceptions.md R227). -/

namespace Sys2Proof.Machine

/-- The status of a response (R220). -/
inductive Status where
  | ok
  | busy
  | eConfig
  | ePrecond
  | eAlloc
  | eState
  | eIllegal
deriving DecidableEq, Repr

/-- The code of a status (R220). -/
def Status.code : Status → Nat
  | .ok => 0
  | .busy => 1
  | .eConfig => 2
  | .ePrecond => 3
  | .eAlloc => 4
  | .eState => 5
  | .eIllegal => 6

/-- `BUSY <- 1` (R31, R171). -/
def State.setBusy (s : State) : State := { s with busy := true }

/-- `BUSY <- 0` (R31, R185, R200). -/
def State.clearBusy (s : State) : State := { s with busy := false }

end Sys2Proof.Machine
end

