-- ==== Sys2Proof/Machine/Ops.lean ====
section
/-! DEFINITION. The shared operations over registers, descriptors, sample memory, LUT and channels (00_scope.md R17).
The block never traps (60_exceptions.md R228): what plays the part of an exception is the status of a response, and
`State.respond` is the one operation that gives it. There is nothing to return from (R229). -/

namespace Sys2Proof.Machine

/-- Go on with the next state; a fault or a refusal ends the run. -/
def andThen (o : Host.Outcome State Fault Refusal) (f : State → Host.Outcome State Fault Refusal) :
    Host.Outcome State Fault Refusal :=
  match o with
  | .next s => f s
  | .fault r => .fault r
  | .refused r => .refused r

/-! ### Banks: lists read by index, with a value for what they do not list -/

/-- Put `a` at index `i`, filling with `d` where the list is shorter. -/
def setAt {α : Type} (d : α) : List α → Nat → α → List α
  | [], 0, a => [a]
  | [], i + 1, a => d :: setAt d [] i a
  | _ :: l, 0, a => a :: l
  | x :: l, i + 1, a => x :: setAt d l i a

/-- `W[i]`: the descriptor of worker `i`; a physical worker that no engine uses is as at power-on (log 9). -/
def State.worker (s : State) (i : Nat) : Worker := s.workers.getD i Worker.powerOn

/-- Write the descriptor of worker `i`. -/
def State.setWorker (s : State) (i : Nat) (w : Worker) : State :=
  { s with workers := setAt Worker.powerOn s.workers i w }

/-- `cmdq[i]` (10_state.md R44). -/
def State.cmdAt (s : State) (i : Nat) : List Word := s.cmdq.getD i []

/-- Write `cmdq[i]`. -/
def State.setCmd (s : State) (i : Nat) (q : List Word) : State := { s with cmdq := setAt [] s.cmdq i q }

/-- `N = 2^NU` (10_state.md R35). -/
def State.size (s : State) : Nat := 2 ^ s.nu

/-! ### Sample memory -/

/-- The sequence of a buffer. -/
def Buffer.seq (b : Buffer) : Part → List Sample
  | .real => b.real
  | .imag => b.imag

/-- A buffer with one of its sequences replaced. -/
def Buffer.withSeq (b : Buffer) (p : Part) (l : List Sample) : Buffer :=
  match p with
  | .real => { b with real := l }
  | .imag => { b with imag := l }

/-- Both lengths are 0: what a handle bound to nothing has (20_memory.md R60). -/
def Buffer.isUnbound (b : Buffer) : Bool := b.real.isEmpty && b.imag.isEmpty

/-- `Buf[h]`. -/
def Memory.lookup : Memory → Nat → Buffer
  | [], _ => { real := [], imag := [] }
  | (k, b) :: m, h => if k = h then b else Memory.lookup m h

/-- Bind a buffer to a handle, keeping the table's canonical form. -/
def Memory.put : Memory → Nat → Buffer → Memory
  | [], h, b => if b.isUnbound then [] else [(h, b)]
  | (k, c) :: m, h, b =>
    if h < k then (if b.isUnbound then (k, c) :: m else (h, b) :: (k, c) :: m)
    else if h = k then (if b.isUnbound then m else (h, b) :: m)
    else (k, c) :: Memory.put m h b

/-- Every handle listed is above `lo` and below `2^16`, rising, and bound to something. -/
def Memory.wfFrom : Memory → Nat → Bool
  | [], _ => true
  | (k, b) :: m, lo => decide (lo ≤ k) && decide (k < 65536) && !b.isUnbound && Memory.wfFrom m (k + 1)

/-- The canonical form of the table: equal memories are equal lists. -/
def Memory.wf (m : Memory) : Bool := Memory.wfFrom m 0

/-- `MemRead(a, 4)` (00_scope.md R17); none where the element does not exist. -/
def Memory.readEl (m : Memory) (a : Addr) : Option Sample := ((m.lookup a.handle.toNat).seq a.part)[a.idx]?

/-- `MemWrite(a, 4, v)` (00_scope.md R17). -/
def Memory.writeEl (m : Memory) (a : Addr) (v : Sample) : Memory :=
  m.put a.handle.toNat
    ((m.lookup a.handle.toNat).withSeq a.part (((m.lookup a.handle.toNat).seq a.part).set a.idx v))

/-- `lenR` and `lenI` are at least `n` (20_memory.md R60, 42_coordinator.md R172). -/
def Memory.longEnough (m : Memory) (h : Handle) (n : Nat) : Bool :=
  decide (n ≤ (m.lookup h.toNat).real.length) && decide (n ≤ (m.lookup h.toNat).imag.length)

/-! ### The LUT -/

/-- `cosTab[p]`; an entry that is not defined reads as a free value (10_state.md R48, log 8). -/
def State.cosAt (s : State) (p : Nat) : Sample := s.cosTab.getD p (Config.unsetCos p)

/-- `sinTab[p]`. -/
def State.sinAt (s : State) (p : Nat) : Sample := s.sinTab.getD p (Config.unsetSin p)

/-- TWLD: the LUT index of first leg `k` at shift count `nu1` (40_lut_bitrev.md R126); for `nu1 < 0` the shift is a free value
(log 36). -/
def twIndex (nu k : Nat) (nu1 : Int) : Nat := bitrev (shiftRight k nu1) nu

/-- TWBUILD: `cosTab` of `2^nu` entries, `TwGen`'s (40_lut_bitrev.md R123). -/
def buildCos (nu : Nat) : List Sample := (List.range (2 ^ nu)).map (fun i => (Config.twGen nu i).1)

/-- TWBUILD: `sinTab` of `2^nu` entries, `TwGen`'s (40_lut_bitrev.md R123). -/
def buildSin (nu : Nat) : List Sample := (List.range (2 ^ nu)).map (fun i => (Config.twGen nu i).2)

/-! ### Free values -/

/-- The `t`-th NaN drawn (41_worker.md R141 (g)). -/
def nanDraw (t : Nat) : Sample := Binary32.mkNaN (Config.nanSign t) (Config.nanFraction t)

/-- An unspecified `w`-bit register read as a number (10_state.md R48). -/
def freeNat (t w : Nat) : Nat := (Config.freeBits t w).toNat

/-- The descriptor of worker `i` of an engine just made or just released: HALTED, the rest unspecified (10_state.md R48). -/
def freeWorker (t i : Nat) : Worker :=
  { nu1 := (Config.freeBits (t + 4 * i) 6).toInt, n2 := freeNat (t + 4 * i + 1) 32,
    stagesCompleted := freeNat (t + 4 * i + 2) 6, buf := Config.freeBits (t + 4 * i + 3) 16, run := .halted, todo := [] }

/-- The first `n` elements of a sequence replaced by draws, every other element kept. -/
def redrawSeq (n t : Nat) (l : List Sample) : List Sample :=
  l.mapIdx (fun i v => if i < n then Config.freeSample (t + 2 * i) else v)

/-- Every element the engine owns becomes a draw (20_memory.md R81). -/
def State.redraw (s : State) (h : Handle) : State :=
  { s with
    mem := s.mem.put h.toNat
      { real := redrawSeq s.size s.draws (s.mem.lookup h.toNat).real,
        imag := redrawSeq s.size (s.draws + 1) (s.mem.lookup h.toNat).imag },
    draws := s.draws + 2 * s.size }

/-! ### Channels -/

/-- The host is told something. -/
def State.tell (n : HostNote) (s : State) : State := { s with seen := s.seen ++ [n] }

/-- `respond st`: the RSP word of a command, `busy` being the value of `BUSY` after it, is returned to the host in the
command's own step and not queued (00_scope.md R17, 10_state.md R46, 30_encoding.md R99, R104). -/
def State.respond (st : Status) (s : State) : State := s.tell (.response (encode (.rsp s.busy st.code)))

/-- `broadcast(m)` (42_coordinator.md R176): the word is sent to each of the `NT` workers, and `PACK <- NT`. -/
def State.broadcast (m : Instr) (s : State) : State :=
  { s with
    cmdq := (List.range s.nt).map (fun i => s.cmdAt i ++ [encode m]) ++ s.cmdq.drop s.nt,
    pack := s.nt }

/-- `ack(w)` (41_worker.md R156): the report is sent and the worker halts. -/
def State.sendAck (s : State) (w : Nat) : State :=
  { s.setWorker w { s.worker w with run := .halted, todo := [] } with ackq := s.ackq ++ [encode (.ack w)] }

/-- `emit DONE(cb, buf)` (42_coordinator.md R184). -/
def State.emitDone (s : State) (h : Handle) : State := { s with evq := s.evq ++ [encode (.done s.cb h)] }

/-- The engine owns element `a` (20_memory.md R62): the buffer in flight, from the accepted SUBMIT to DONE, below `N`. -/
def State.lent (s : State) (a : Addr) : Bool := s.buf == some a.handle && decide (a.idx < s.size)

end Sys2Proof.Machine
end

