-- ==== Sys2Proof/Machine/Coordinator.lean ====
section
/-! DEFINITION. The coordinator's own steps (42_coordinator.md): the barrier and its release, the reorder pass, the
notification, the return to idle, and the receipt of ACK. -/

namespace Sys2Proof.Machine

/-- Release in the Distributed phase (R179). -/
def releaseDist (s : State) : Host.Outcome State Fault Refusal :=
  if s.phase < s.nt then
    match s.buf with
    | some h => .next { s.broadcast (.strided false h) with phase := s.phase * 2 }
    | none => .fault .noBufferHeld
  else .next { s.broadcast .localRemainder with st := .localPhase }

/-- Release in the Local phase (R181). -/
def releaseLocal (s : State) : State := { s with st := .reord, rk := 0, notified := false }

/-- Barrier release (R178). -/
def release (s : State) : Host.Outcome State Fault Refusal :=
  match s.st with
  | .dist => releaseDist s
  | .localPhase => .next (releaseLocal s)
  | .unconf => .refused .strayReport
  | .idle => .refused .strayReport
  | .reord => .refused .strayReport

/-- A report is awaited (R177: `ST` is DIST or LOCAL and `PACK ≥ 1`). -/
def State.awaitsReport (s : State) : Bool := (s.st == .dist || s.st == .localPhase) && decide (1 ≤ s.pack)

/-- The report step (R177): the coordinator counts an ACK taken from `ackq`; its `id` is not used. -/
def execAck (_id : Nat) (s : State) : Host.Outcome State Fault Refusal :=
  if s.awaitsReport = false then .refused .strayReport
  else if s.pack - 1 = 0 then release { s with pack := 0 }
  else .next { s with pack := s.pack - 1 }

/-- The exchange of elements `k` and `ib` of the buffer `h` (R182). -/
def swapEls (m : Memory) (h : Handle) (k ib : Nat) (xr yr xi yi : Sample) : Memory :=
  (((m.writeEl ⟨h, .real, k⟩ yr).writeEl ⟨h, .real, ib⟩ xr).writeEl ⟨h, .imag, k⟩ yi).writeEl ⟨h, .imag, ib⟩ xi

/-- The reorder step, SWAP (R182). -/
def reorderStep (s : State) : Host.Outcome State Fault Refusal :=
  if s.rk < bitrev s.rk s.nu then
    match s.buf with
    | none => .fault .noBufferHeld
    | some h =>
      match s.mem.readEl ⟨h, .real, s.rk⟩, s.mem.readEl ⟨h, .real, bitrev s.rk s.nu⟩, s.mem.readEl ⟨h, .imag, s.rk⟩,
          s.mem.readEl ⟨h, .imag, bitrev s.rk s.nu⟩ with
      | some xr, some yr, some xi, some yi =>
        .next { s with mem := swapEls s.mem h s.rk (bitrev s.rk s.nu) xr yr xi yi, rk := s.rk + 1 }
      | _, _, _, _ => .fault .noSuchElement
  else .next { s with rk := s.rk + 1 }

/-- The notify step (R184). Where the host has written the lent buffer, what it gets back is unspecified (20_memory.md
R81). -/
def notify (s : State) : Host.Outcome State Fault Refusal :=
  match s.buf with
  | none => .fault .noBufferHeld
  | some h => .next { (if s.spoiled then s.redraw h else s).emitDone h with buf := none, notified := true }

/-- The return-to-idle step (R185). -/
def toIdle (s : State) : State := { s with st := .idle, busy := false }

end Sys2Proof.Machine
end

