-- ==== Sys2Proof/Machine/HostCommands.lean ====
section
/-! DEFINITION. The four host commands: CONFIG and SHUTDOWN (43_lifecycle.md), SUBMIT and ISBUSY (42_coordinator.md).
Each is one atomic coordinator step that ends in one response (42_coordinator.md R170). -/

namespace Sys2Proof.Machine

/-- The engine that a successful CONFIG makes (43_lifecycle.md R200). What CONFIG does not set is unspecified afterwards
(10_state.md R48, 90_conflicts.md C21): free values. -/
def State.construct (nu nt : Nat) (s : State) : State :=
  { s with
    nu := nu, nt := nt, sul := Nat.log2 nt,
    cosTab := buildCos nu, sinTab := buildSin nu,
    workers := (List.range nt).map (freeWorker (s.draws + 5)),
    cmdq := List.replicate nt [], ackq := [],
    busy := false, buf := none, st := .idle,
    phase := freeNat s.draws 16, pack := freeNat (s.draws + 1) 16, rk := freeNat (s.draws + 2) 32,
    notified := Config.freeBits (s.draws + 3) 1 == 1#1, cb := Config.freeBits (s.draws + 4) 8,
    draws := s.draws + 5 + 4 * nt }

/-- CONFIG `nu`, `hint` (43_lifecycle.md R200 to R204). -/
def execConfig (nu : Nat) (hint : Int) (s : State) : Host.Outcome State Fault Refusal :=
  if s.st ≠ .unconf then .next (s.respond .eState)
  else if nu < 1 then .next (s.respond .eConfig)
  else if 2 ^ nu / 2 < ceilpow2 hint then .next (s.respond .eConfig)
  else if nu ≤ Config.nuMax ∧ ceilpow2 hint ≤ Config.ntMax then
    .next ((s.construct nu (ceilpow2 hint)).respond .ok)
  else .next (s.respond .eAlloc)

/-- The engine after an accepted SUBMIT (42_coordinator.md R171, 10_state.md R49). -/
def State.accept (buf : Handle) (cb : Callback) (s : State) : State :=
  { s.setBusy with buf := some buf, cb := cb, phase := 2, rk := 0, notified := false, st := .dist,
                   spoiled := false }.broadcast (.strided true buf)

/-- SUBMIT `buf`, `cb` (42_coordinator.md R171 to R174). -/
def execSubmit (buf : Handle) (cb : Callback) (s : State) : Host.Outcome State Fault Refusal :=
  if s.st = .unconf then .next (s.respond .eState)
  else if s.busy = true then .next (s.respond .busy)
  else if s.mem.longEnough buf s.size = false then .next (s.respond .ePrecond)
  else .next ((s.accept buf cb).respond .ok)

/-- ISBUSY (42_coordinator.md R175): the answer is the `busy` bit of the response. -/
def execIsbusy (s : State) : Host.Outcome State Fault Refusal :=
  if s.st = .unconf then .next (s.respond .eState) else .next (s.respond .ok)

/-- The state after a SHUTDOWN from idle (43_lifecycle.md R205): as after power-on, `NU`, `NT`, `SUL`, the descriptors, the
LUT and the per-transform registers unspecified (10_state.md R48); `evq` keeps what it holds. -/
def State.release (s : State) : State :=
  { s with
    st := .unconf,
    nu := freeNat s.draws 5, nt := freeNat (s.draws + 1) 16, sul := freeNat (s.draws + 2) 4,
    phase := freeNat (s.draws + 3) 16, pack := freeNat (s.draws + 4) 16, rk := freeNat (s.draws + 5) 32,
    notified := Config.freeBits (s.draws + 6) 1 == 1#1, cb := Config.freeBits (s.draws + 7) 8, buf := none,
    cosTab := [], sinTab := [],
    workers := (List.range s.workers.length).map (freeWorker (s.draws + 8)),
    draws := s.draws + 8 + 4 * s.workers.length }

/-- SHUTDOWN (43_lifecycle.md R205, R206). -/
def execShutdown (s : State) : Host.Outcome State Fault Refusal :=
  if s.st = .unconf then .next (s.respond .eState)
  else if s.busy = true then .fault .shutdownInFlight
  else .next (s.release.respond .ok)

end Sys2Proof.Machine
end

