-- ==== Sys2Proof/Machine/HostSide.lean ====
section
/-! DEFINITION. The host's side: what a DONE or a response tells it (60_exceptions.md R230, 30_encoding.md R104),
and its own accesses to sample memory (20_memory.md R60, R62, R81). -/

namespace Sys2Proof.Machine

/-- DONE `cb`, `buf`, taken from `evq` by the host: the callback `cb` is invoked with the buffer (60_exceptions.md R230). -/
def execDone (cb : Callback) (buf : Handle) (s : State) : Host.Outcome State Fault Refusal :=
  .next (s.tell (.completion cb buf))

/-- RSP `busy`, `status`, given to the host (30_encoding.md R99): what `State.respond` does in the step of a command. -/
def execRsp (busy : Bool) (status : Nat) (s : State) : Host.Outcome State Fault Refusal :=
  .next (s.tell (.response (encode (.rsp busy status))))

/-- The host binds a buffer to a handle (20_memory.md R60); a lent handle stays bound (R62, log 20). -/
def hostBind (h : Handle) (b : Buffer) (s : State) : Host.Outcome State Fault Refusal :=
  if s.buf = some h then .fault .lentBufferRebound else .next { s with mem := s.mem.put h.toNat b }

/-- The host writes an element (20_memory.md R62); in the lent buffer every element becomes a draw (R81). -/
def hostWrite (a : Addr) (v : Sample) (s : State) : Host.Outcome State Fault Refusal :=
  if s.mem.readEl a = none then .fault .hostOutOfRange
  else if s.lent a then .next { s.redraw a.handle with spoiled := true }
  else .next { s with mem := s.mem.writeEl a v }

/-- The host reads an element (20_memory.md R62); in the lent buffer it gets a draw (R81). -/
def hostRead (a : Addr) (s : State) : Host.Outcome State Fault Refusal :=
  match s.mem.readEl a with
  | none => .fault .hostOutOfRange
  | some v =>
    if s.lent a then
      .next { s.tell (.datum (Config.freeSample s.draws)) with draws := s.draws + 1 }
    else .next (s.tell (.datum v))

end Sys2Proof.Machine
end

