-- ==== Sys2Proof/Machine/Butterfly.lean ====
section
/-! DEFINITION. BFLY, the butterfly (41_worker.md R140 to R143). -/

namespace Sys2Proof.Machine

/-- The four values a butterfly writes. -/
structure Legs where
  real1 : Sample
  imag1 : Sample
  real2 : Sample
  imag2 : Sample
deriving DecidableEq, Repr

/-- `tr = fadd(fmul(br, c), fmul(bi, s))` (R140). -/
def bflyTr (nan : Nat → Sample) (c s br bi : Sample) : Sample :=
  Binary32.fadd (nan 2) (Binary32.fmul (nan 0) br c) (Binary32.fmul (nan 1) bi s)

/-- `ti = fsub(fmul(bi, c), fmul(br, s))` (R140). -/
def bflyTi (nan : Nat → Sample) (c s br bi : Sample) : Sample :=
  Binary32.fsub (nan 5) (Binary32.fmul (nan 3) bi c) (Binary32.fmul (nan 4) br s)

/-- The results of one butterfly (R140); `nan j` is the NaN drawn for its `j`-th operation. -/
def bflyLegs (nan : Nat → Sample) (c s ar ai br bi : Sample) : Legs :=
  { real2 := Binary32.fsub (nan 6) ar (bflyTr nan c s br bi),
    imag2 := Binary32.fsub (nan 7) ai (bflyTi nan c s br bi),
    real1 := Binary32.fadd (nan 8) ar (bflyTr nan c s br bi),
    imag1 := Binary32.fadd (nan 9) ai (bflyTi nan c s br bi) }

/-- The four writes of a butterfly on the buffer `h`, in the order of R140. -/
def writeLegs (m : Memory) (h : Handle) (k1 k2 : Nat) (r : Legs) : Memory :=
  (((m.writeEl ⟨h, .real, k2⟩ r.real2).writeEl ⟨h, .imag, k2⟩ r.imag2).writeEl ⟨h, .real, k1⟩ r.real1).writeEl
    ⟨h, .imag, k1⟩ r.imag1

/-- `bfly(k, nu1, n2)` of worker `w` (R140): four reads, then four writes; ten NaNs are set aside, one an operation. -/
def bfly (w k : Nat) (s : State) : Host.Outcome State Fault Refusal :=
  let h := (s.worker w).buf
  let k2 := k + (s.worker w).n2
  let p := twIndex s.nu k (s.worker w).nu1
  match s.mem.readEl ⟨h, .real, k⟩, s.mem.readEl ⟨h, .imag, k⟩, s.mem.readEl ⟨h, .real, k2⟩,
      s.mem.readEl ⟨h, .imag, k2⟩ with
  | some ar, some ai, some br, some bi =>
    .next
      { s with
        mem := writeLegs s.mem h k k2
          (bflyLegs (fun j => nanDraw (s.draws + j)) (s.cosAt p) (s.sinAt p) ar ai br bi),
        draws := s.draws + 10 }
  | _, _, _, _ => .fault .noSuchElement

end Sys2Proof.Machine
end

