-- ==== Sys2Proof/Machine/Worker.lean ====
section
/-! DEFINITION. The worker (41_worker.md): receipt, work and report, and the two commands STRIDED and LOCAL. A command
is executed whole by `execStrided` and `execLocalRemainder`; the same receipt, atoms and report are single moves too
(41_worker.md R148, 92_eei_decisions.md D23). -/

namespace Sys2Proof.Machine

/-- The end of a stage (R150, R153): `nu1` less one, `n2` halved, `stagesCompleted` plus one. -/
def Worker.endStage (d : Worker) : Worker :=
  { d with nu1 := d.nu1 - 1, n2 := d.n2 / 2, stagesCompleted := d.stagesCompleted + 1 }

/-- The descriptor loaded at the start of a transform (10_state.md R49, R150). -/
def Worker.load (d : Worker) (nu : Nat) (h : Handle) : Worker :=
  { d with nu1 := (nu : Int) - 1, n2 := 2 ^ (nu - 1), stagesCompleted := 0, buf := h }

/-- One atom of a command of worker `w`. -/
def doWork (w : Nat) (it : Work) (s : State) : Host.Outcome State Fault Refusal :=
  match it with
  | .bfly k => bfly w k s
  | .endStage => .next (s.setWorker w (s.worker w).endStage)

/-- Worker `w`'s position moves past the atom it takes up. -/
def State.setTodo (s : State) (w : Nat) (l : List Work) : State := s.setWorker w { s.worker w with todo := l }

/-- Worker `w` does the next atom of its command. -/
def workStep (w : Nat) (s : State) : Host.Outcome State Fault Refusal :=
  match (s.worker w).todo with
  | [] => .next s
  | it :: rest => doWork w it (s.setTodo w rest)

/-- Worker `w` does the atoms of a list one after another. -/
def runWork (w : Nat) : List Work → State → Host.Outcome State Fault Refusal
  | [], s => .next s
  | it :: rest, s => andThen (doWork w it (s.setTodo w rest)) (runWork w rest)

/-- Worker `w` takes up a command with the given work: `run <- RUNNING` (R148). -/
def State.beginWork (s : State) (w : Nat) (d : Worker) (l : List Work) : State :=
  s.setWorker w { d with run := .running, todo := l }

/-- The descriptor a STRIDED command works with: loaded first when `init = 1` (R150). -/
def stridedDescriptor (init : Bool) (buf : Handle) (nu : Nat) (d : Worker) : Worker :=
  if init then d.load nu buf else d

/-- Receipt of STRIDED by worker `w` (R150). With `init = 0` and `n2 = 0` there is no butterfly, and the stage ends and is
reported as any other (DESIGN CHOICE, log 35). -/
def receiveStrided (w : Nat) (init : Bool) (buf : Handle) (s : State) : Host.Outcome State Fault Refusal :=
  if workerCountOk s.nu s.nt = false then .refused .badWorkerCount
  else
    .next (s.beginWork w (stridedDescriptor init buf s.nu (s.worker w))
      (stageWork (stridedLegs s.size s.nt (stridedDescriptor init buf s.nu (s.worker w)).n2 w)))

/-- Receipt of LOCAL by worker `w` (R153). -/
def receiveLocal (w : Nat) (s : State) : Host.Outcome State Fault Refusal :=
  if workerCountOk s.nu s.nt = false then .refused .badWorkerCount
  else .next (s.beginWork w (s.worker w) (localWork w (s.worker w).n2))

/-- The rest of a received command, in one step: its atoms, then the report (R156). -/
def finishCommand (w : Nat) (s : State) : Host.Outcome State Fault Refusal :=
  andThen (runWork w (s.worker w).todo s) (fun t => .next (t.sendAck w))

/-- STRIDED `init`, `buf`, executed by the acting worker (R150 to R152). -/
def execStrided (init : Bool) (buf : Handle) (s : State) : Host.Outcome State Fault Refusal :=
  andThen (receiveStrided s.acting init buf s) (finishCommand s.acting)

/-- LOCAL, executed by the acting worker (R153 to R155). -/
def execLocalRemainder (s : State) : Host.Outcome State Fault Refusal :=
  andThen (receiveLocal s.acting s) (finishCommand s.acting)

end Sys2Proof.Machine
end

