-- ==== Sys2Proof/Machine/Dispatch.lean ====
section
/-! DEFINITION. One arm per message: what happens when it is taken from its port. -/

namespace Sys2Proof.Machine

def exec (i : Instr) (s : State) : Host.Outcome State Fault Refusal :=
  match i with
  | .config nu hint => Sys2Proof.Machine.execConfig nu hint s
  | .submit buf cb => Sys2Proof.Machine.execSubmit buf cb s
  | .isbusy => Sys2Proof.Machine.execIsbusy s
  | .shutdown => Sys2Proof.Machine.execShutdown s
  | .strided init buf => Sys2Proof.Machine.execStrided init buf s
  | .localRemainder => Sys2Proof.Machine.execLocalRemainder s
  | .ack id => Sys2Proof.Machine.execAck id s
  | .done cb buf => Sys2Proof.Machine.execDone cb buf s
  | .rsp busy status => Sys2Proof.Machine.execRsp busy status s

end Sys2Proof.Machine
end

