-- ==== Sys2Proof/Machine/Moves.lean ====
section
/-! DEFINITION. The moves of the agents (00_scope.md R13, 42_coordinator.md R170, 41_worker.md R148): when each is enabled,
the word it takes from its channel, and what it does. -/

namespace Sys2Proof.Machine

/-- The host's next action can be taken: a wait needs something to take (30_encoding.md R106). -/
def hostEnabled (s : State) : Bool :=
  match s.hostq with
  | [] => false
  | .waitDone :: _ => !s.evq.isEmpty
  | .word _ :: _ => true
  | .bind _ _ :: _ => true
  | .write _ _ :: _ => true
  | .read _ :: _ => true

/-- Whether a move is enabled (41_worker.md R148; 42_coordinator.md R177, R182, R184, R185). -/
def enabled (m : Move) (s : State) : Bool :=
  match m with
  | .host => hostEnabled s
  | .command w => decide (w < s.nt) && (s.worker w).run == .halted && !(s.cmdAt w).isEmpty
  | .receive w => decide (w < s.nt) && (s.worker w).run == .halted && !(s.cmdAt w).isEmpty
  | .work w => decide (w < s.nt) && (s.worker w).run == .running && !(s.worker w).todo.isEmpty
  | .report w => decide (w < s.nt) && (s.worker w).run == .running && (s.worker w).todo.isEmpty
  | .collect n => decide (n < s.ackq.length)
  | .reorder => s.st == .reord && decide (s.rk < s.size)
  | .notify => s.st == .reord && s.rk == s.size && !s.notified
  | .toIdle => s.st == .reord && s.notified
  | .response => s.rsp.isSome

/-- The word the move takes from a channel, if it takes one. -/
def fetch (m : Move) (s : State) : Option Word :=
  match m with
  | .host =>
    match s.hostq with
    | [] => none
    | .word w :: _ => some w
    | .waitDone :: _ => s.evq.head?
    | .bind _ _ :: _ => none
    | .write _ _ :: _ => none
    | .read _ :: _ => none
  | .command w => (s.cmdAt w).head?
  | .receive w => (s.cmdAt w).head?
  | .collect n => s.ackq[n]?
  | .work _ => none
  | .report _ => none
  | .response => s.rsp
  | .reorder => none
  | .notify => none
  | .toIdle => none

/-- The state with the move's word, or the host's action, taken off its channel. -/
def takeOff (m : Move) (s : State) : State :=
  match m with
  | .host =>
    match s.hostq with
    | [] => s
    | .word _ :: q => { s with hostq := q }
    | .waitDone :: q => { s with hostq := q, evq := s.evq.tail }
    | .bind _ _ :: q => { s with hostq := q }
    | .write _ _ :: q => { s with hostq := q }
    | .read _ :: q => { s with hostq := q }
  | .command w => { s.setCmd w (s.cmdAt w).tail with acting := w }
  | .receive w => { s.setCmd w (s.cmdAt w).tail with acting := w }
  | .collect n => { s with ackq := s.ackq.eraseIdx n }
  | .work _ => s
  | .report _ => s
  | .response => { s with rsp := none }
  | .reorder => s
  | .notify => s
  | .toIdle => s

/-- The port a move takes its word from (30_encoding.md R90). -/
def portOf (m : Move) (s : State) : Port :=
  match m with
  | .host =>
    match s.hostq with
    | .waitDone :: _ => .hostEvent
    | _ => .hostCommand
  | .collect _ => .report
  | .response => .hostResponse
  | .command _ => .workerCommand
  | .receive _ => .workerCommand
  | _ => .hostCommand

/-- A word that is no legal message of its port: on the host command port it is answered E_ILLEGAL and does nothing
(30_encoding.md R102, 60_exceptions.md R226); an internal channel never holds one (30_encoding.md R103). -/
def stray (p : Port) (w : Word) (s : State) : Host.Outcome State Fault Refusal :=
  if p = .hostCommand then .next (s.respond .eIllegal) else .refused (.strayWord w)

/-- A word taken from port `p`: decoded, and executed if it is a message of that port. -/
def deliver (p : Port) (w : Word) (s : State) : Host.Outcome State Fault Refusal :=
  match decode w with
  | .instr i => if i.port = p then exec i s else stray p w s
  | .reject _ => stray p w s

/-- A word taken from a worker's channel by its receipt alone, the rest of the command to follow (41_worker.md R148). -/
def receiveOnly (w : Word) (s : State) : Host.Outcome State Fault Refusal :=
  match decode w with
  | .instr (.strided init buf) => receiveStrided s.acting init buf s
  | .instr .localRemainder => receiveLocal s.acting s
  | _ => .refused (.strayWord w)

/-- The host's own access to sample memory, `s` being the state without the action. -/
def hostAccess (a : HostAct) (s : State) : Host.Outcome State Fault Refusal :=
  match a with
  | .bind h b => hostBind h b s
  | .write x v => hostWrite x v s
  | .read x => hostRead x s
  | .word _ => .next s
  | .waitDone => .next s

/-- An enabled move that takes no word. -/
def wordless (m : Move) (s : State) : Host.Outcome State Fault Refusal :=
  match m with
  | .host =>
    match s.hostq with
    | [] => .next s
    | a :: _ => hostAccess a (takeOff .host s)
  | .work w => workStep w s
  | .report w => .next (s.sendAck w)
  | .reorder => reorderStep s
  | .notify => notify s
  | .toIdle => .next (toIdle s)
  | .command _ => .next s
  | .receive _ => .next s
  | .collect _ => .next s
  | .response => .next s

/-- The move only receives a worker command. -/
def Move.isReceive : Move → Bool
  | .receive _ => true
  | .host => false
  | .command _ => false
  | .work _ => false
  | .report _ => false
  | .collect _ => false
  | .reorder => false
  | .notify => false
  | .toIdle => false
  | .response => false

/-- An enabled move: it takes its word and acts on it, or acts without one. -/
def act (m : Move) (s : State) : Host.Outcome State Fault Refusal :=
  match fetch m s with
  | some w => if m.isReceive then receiveOnly w (takeOff m s) else deliver (portOf m s) w (takeOff m s)
  | none => wordless m s

/-- A move: one that is not enabled changes nothing (log 21). -/
def perform (m : Move) (s : State) : Host.Outcome State Fault Refusal := if enabled m s then act m s else .next s

/-- Every move that can be made. -/
def candidates (s : State) : List Move :=
  [.host, .reorder, .notify, .toIdle, .response] ++
    (List.range s.nt).flatMap (fun w => [.command w, .receive w, .work w, .report w]) ++
    (List.range s.ackq.length).map (fun n => Move.collect n)

/-- The moves enabled now. -/
def enabledMoves (s : State) : List Move := (candidates s).filter (fun m => enabled m s)

/-- One step of the machine: the next move of the schedule, or else any enabled move, or nothing when none is enabled
(70_reset_and_hazards.md R262, 60_exceptions.md R241; log 2, log 21). -/
def advance (s : State) : Host.Outcome State Fault Refusal :=
  match s.sched with
  | m :: ms => perform m { s with sched := ms }
  | [] =>
    match enabledMoves s with
    | [] => .next s
    | m :: ms =>
      perform ((m :: ms).getD (Config.choice s.draws % (ms.length + 1)) m) { s with draws := s.draws + 1 }

/-- A word put at the head of a port, and the move that takes it scheduled first. -/
def placeWord (p : Port) (w : Word) (s : State) : State :=
  match p with
  | .hostCommand => { s with hostq := .word w :: s.hostq, sched := .host :: s.sched }
  | .hostEvent => { s with evq := w :: s.evq, hostq := .waitDone :: s.hostq, sched := .host :: s.sched }
  | .hostResponse => { s with rsp := some w, sched := .response :: s.sched }
  | .report => { s with ackq := w :: s.ackq, sched := .collect 0 :: s.sched }
  | .workerCommand =>
    { (s.setWorker 0 { s.worker 0 with run := .halted, todo := [] }).setCmd 0 [w] with sched := .command 0 :: s.sched }

end Sys2Proof.Machine
end

