-- ==== Sys2Proof/Machine/Step.lean ====
section
/-! DEFINITION. One step, and how a word is put where the next step takes it (log 26). -/

namespace Sys2Proof.Machine

/-- One step of one agent (00_scope.md R13). -/
def step (s : State) : Host.Outcome State Fault Refusal := advance s

/-- The state with a word on the port its opcode belongs to and the move that takes it scheduled first. -/
def State.withFetchWord (s : State) (nbits w : Nat) : State :=
  placeWord (portOfWord (tableWord nbits w)) (tableWord nbits w) s

end Sys2Proof.Machine
end

