-- ==== Sys2Proof/Machine/Twiddle.lean ====
section
/-! DEFINITION. This spec's value for the configuration field `TwGen` (40_lut_bitrev.md R124; the field is
`Config.twGen`, of which the machine assumes nothing, log 12): the exact cosine and sine of
`2π·i/2^nu`, each rounded once to binary32, an exact zero stored as `+0`. An angle is a whole number of `2^-32` turns,
so nesting (R125 P4) holds by construction; quadrants are reduced exactly, so R125 P1 and P3 do. -/

namespace Sys2Proof.Machine.Twiddle

/-- `π` in fixed point, `2^-128` units, rounded down. -/
def piFixed : Nat := 0x3243F6A8885A308D313198A2E03707344

/-- The rest of the alternating series whose next term is `term` (fixed point), the next divisor `d * (d + 1)`. -/
def series (x2 : Nat) : Nat → Nat → Nat → Int
  | 0, _, _ => 0
  | n + 1, term, d => (term : Int) - series x2 n (term * x2 / 2 ^ 128 / (d * (d + 1))) (d + 2)

/-- The angle of `r` units of `2^-32` turn, in radians, fixed point. -/
def radians (r : Nat) : Nat := piFixed * r / 2 ^ 31

/-- The square of the angle, fixed point. -/
def radiansSq (r : Nat) : Nat := radians r * radians r / 2 ^ 128

/-- `sin` of `r` units of `2^-32` turn, `r ≤ 2^29` (an eighth of a turn), fixed point. -/
def sinFixed (r : Nat) : Nat := (series (radiansSq r) 20 (radians r) 2).toNat

/-- `cos` of `r` units of `2^-32` turn, `r ≤ 2^29`, fixed point. -/
def cosFixed (r : Nat) : Nat := (series (radiansSq r) 20 (2 ^ 128) 1).toNat

/-- The magnitude pattern of `sin` of `r` units, `r ≤ 2^30` (a quarter turn), rounded to nearest. The fixed-point error is
below `2^-120`; no angle of this kind lies that near to a tie (log 12). -/
def quarterSin (r : Nat) : Nat :=
  if r ≤ 2 ^ 29 then Binary32.roundMag (sinFixed r * 2 ^ 21) 0
  else Binary32.roundMag (cosFixed (2 ^ 30 - r) * 2 ^ 21) 0

/-- The sign put on a magnitude; a zero is `+0` (R124). -/
def signed (s : Bool) (m : Nat) : Sample := Binary32.pack (s && m != 0) m

/-- `RN(sin(2π·t/2^32))`. -/
def sinTurn (t : Nat) : Sample :=
  if t / 2 ^ 30 % 4 = 0 then signed false (quarterSin (t % 2 ^ 30))
  else if t / 2 ^ 30 % 4 = 1 then signed false (quarterSin (2 ^ 30 - t % 2 ^ 30))
  else if t / 2 ^ 30 % 4 = 2 then signed true (quarterSin (t % 2 ^ 30))
  else signed true (quarterSin (2 ^ 30 - t % 2 ^ 30))

/-- `RN(cos(2π·t/2^32))`: the sine a quarter turn on. -/
def cosTurn (t : Nat) : Sample := sinTurn (t + 2 ^ 30)

/-- This spec's value for `TwGen(nu, i)`, `nu ≤ 31` (R124): the correctly rounded pair at index `i`. -/
def twGen (nu i : Nat) : Sample × Sample := (cosTurn (i * 2 ^ (32 - nu)), sinTurn (i * 2 ^ (32 - nu)))

end Sys2Proof.Machine.Twiddle
end

