-- ==== Sys2Proof/Safety.lean ====
section
/-! DEFINITION. What a good state of the engine is, and what a safe run is, in the terms the claims use. -/

namespace Sys2Proof.Machine

/-- The moves of a list one after another. -/
def performAll : List Move → State → Host.Outcome State Fault Refusal
  | [], s => .next s
  | m :: ms, s => andThen (perform m s) (performAll ms)

/-- A transform is under way: `ST` is DIST, LOCAL or REORD. -/
def State.inTransform (s : State) : Bool := s.st == .dist || s.st == .localPhase || s.st == .reord

/-- A round is under way: `ST` is DIST or LOCAL. -/
def State.inRound (s : State) : Bool := s.st == .dist || s.st == .localPhase

/-- `BUSY = 1` exactly when `ST` is DIST, LOCAL or REORD (10_state.md R31). -/
def State.busyOk (s : State) : Bool := s.busy == s.inTransform

/-- What CONFIG fixes, while an engine is configured (00_scope.md R9, R10; 10_state.md R33, R35, R42). -/
structure State.ConfiguredOk (s : State) : Prop where
  nu_low : 2 ≤ s.nu
  nu_high : s.nu ≤ Config.nuMax
  count : workerCountOk s.nu s.nt = true
  nt_high : s.nt ≤ Config.ntMax
  sul : s.sul = Nat.log2 s.nt
  cos : s.cosTab = buildCos s.nu
  sin : s.sinTab = buildSin s.nu
  workers : s.workers.length = s.nt
  channels : s.cmdq.length = s.nt

/-- Worker `w` has nothing to do and nothing to come. -/
def State.idleWorker (s : State) (w : Nat) : Bool :=
  (s.cmdAt w).isEmpty && (s.worker w).run == .halted && (s.worker w).todo.isEmpty

/-- No command, no report and no running worker anywhere (10_state.md R47). -/
def State.Quiet (s : State) : Prop := s.ackq = [] ∧ ∀ w, s.idleWorker w = true

/-- Worker `w` has not reported in the current round yet: its command waits, or it is working. -/
def State.owesReport (s : State) (w : Nat) : Bool := !(s.cmdAt w).isEmpty || (s.worker w).run == .running

/-- The number of STRIDED rounds begun, `log2 PHASE`; the LOCAL round comes after `SUL` of them (42_coordinator.md R180). -/
def State.round (s : State) : Nat := if s.st = .dist then Nat.log2 s.phase else s.sul + 1

/-- The atoms of a command fit the buffer: both legs of every butterfly are below `size`, for a worker that holds span
`n2` (41_worker.md R147). -/
def workFits (size : Nat) : Nat → List Work → Bool
  | _, [] => true
  | n2, .bfly k :: l => decide (k + n2 < size) && workFits size n2 l
  | n2, .endStage :: l => workFits size (n2 / 2) l

/-- The number of stages a list of atoms ends. -/
def stagesIn : List Work → Nat
  | [] => 0
  | .bfly _ :: l => stagesIn l
  | .endStage :: l => stagesIn l + 1

/-- The descriptor values with which a worker enters the current round: `nu1 = NU - r`, `n2 = 2^(NU - r)` in round `r`. -/
def State.entersWith (s : State) (d : Worker) : Bool :=
  d.nu1 == (s.nu : Int) - (s.round : Int) && d.n2 == 2 ^ (s.nu - s.round)

/-- The descriptor values with which a worker leaves the current round, when it holds `nu1`, `n2` and has `k` stages of
its command to end. -/
def State.leavesWith (s : State) (d : Worker) (k : Nat) : Bool :=
  if s.st = .dist then
    d.nu1 - (k : Int) == (s.nu : Int) - (s.round : Int) - 1 && d.n2 / 2 ^ k == 2 ^ (s.nu - s.round - 1)
  else d.nu1 - (k : Int) == -1 && d.n2 / 2 ^ k == 0

/-- The command of the current round (42_coordinator.md R171, R179): `init = 1` in the first. -/
def State.roundCommand (s : State) (h : Handle) : Instr :=
  if s.st = .dist then .strided (s.phase == 2) h else .localRemainder

/-- Worker `w` in a round on the buffer `h`: its command waits, or it is at work, or it has reported. -/
def State.workerOk (s : State) (h : Handle) (w : Nat) : Bool :=
  (s.cmdAt w == [encode (s.roundCommand h)] && (s.worker w).run == .halted && (s.worker w).todo.isEmpty &&
      ((s.st == .dist && s.phase == 2) || (s.entersWith (s.worker w) && (s.worker w).buf == h))) ||
    ((s.cmdAt w).isEmpty && (s.worker w).run == .running && (s.worker w).buf == h &&
      workFits s.size (s.worker w).n2 (s.worker w).todo &&
      s.leavesWith (s.worker w) (stagesIn (s.worker w).todo)) ||
    (s.idleWorker w && (s.worker w).buf == h && s.leavesWith (s.worker w) 0)

/-- A round in progress (10_state.md R28, R32, R34, R44, R45; 42_coordinator.md R177 to R181). -/
structure State.RoundOk (s : State) : Prop where
  phase : ∃ r, 1 ≤ r ∧ r ≤ s.sul ∧ s.phase = 2 ^ r ∧ (s.st = .localPhase → r = s.sul)
  buffer : ∃ h, s.buf = some h ∧ s.mem.longEnough h s.size = true ∧ ∀ w, w < s.nt → s.workerOk h w = true
  reports : ∀ x ∈ s.ackq, ∃ w, w < s.nt ∧ x = encode (.ack w)
  owed : s.pack = s.ackq.length + (List.range s.nt).countP s.owesReport
  some_owed : 1 ≤ s.pack

/-- A reorder pass in progress (10_state.md R36, R37, R47; 42_coordinator.md R181 to R185). -/
structure State.ReorderOk (s : State) : Prop where
  quiet : s.Quiet
  phase : s.phase = s.nt
  index : s.rk ≤ s.size
  buffer : s.notified = false → ∃ h, s.buf = some h ∧ s.mem.longEnough h s.size = true
  given_up : s.notified = true → s.buf = none ∧ s.rk = s.size

/-- The invariant of the whole engine. -/
structure State.Inv (s : State) : Prop where
  busy : s.busyOk = true
  memory : s.mem.wf = true
  configured : s.st ≠ .unconf → s.ConfiguredOk
  resting : s.st = .unconf ∨ s.st = .idle → s.Quiet ∧ s.buf = none
  round : s.st = .dist ∨ s.st = .localPhase → s.RoundOk
  reorder : s.st = .reord → s.ReorderOk
  events : ∀ x ∈ s.evq, ∃ cb h, x = encode (.done cb h)
  responses : s.rsp = none

/-- The faults that a host brings about by breaking its obligations (20_memory.md R62, R81; 70_reset_and_hazards.md
R254, R256). -/
def Fault.isHosts : Fault → Bool
  | .shutdownInFlight => true
  | .hostOutOfRange => true
  | .lentBufferRebound => true
  | .noSuchElement => false
  | .noBufferHeld => false

/-- A run of `k` steps that stops nowhere. -/
def State.RunsFor (s : State) : Nat → Prop
  | 0 => True
  | k + 1 => ∃ t, step s = .next t ∧ State.RunsFor t k

end Sys2Proof.Machine
end

