-- ==== Sys2Proof/Certificates/Slice0/Obligations.lean ====
section
/-! DEFINITION. The statements for the provers, from the numbered rules of spec/. A statement whose docstring says "the
model's choice" names the log entry it rests on; every other clause is the spec's. -/

open Sys2Proof Sys2Proof.Machine

/-! ### Encoding -/

/-- 30_encoding.md R92 to R99: no operand bit is dropped. -/
def Obligations.DecodeOfEncode : Prop :=
  ∀ i : Instr, i.wf = true → decode (encode i) = .instr i

/-- 30_encoding.md R91 to R99: a word is a message only if every bit is the one its format gives. -/
def Obligations.EncodeOfDecode : Prop :=
  ∀ (w : Word) (i : Instr), decode w = .instr i → i.wf = true ∧ encode i = w

/-- 30_encoding.md R92 to R101: the decoder accepts exactly the words that the `match` and `mask` of one row accept, and
reads that row. -/
def Obligations.DecoderAgreesWithTable : Prop :=
  ∀ w : Word, (opcodeRows.filter (fun r => r.accepts w)).map OpcodeRow.mnemonic =
    match decode w with
    | .instr i => [i.mnemonic]
    | .reject _ => []

/-- The example words of 30_encoding.md R92 to R99 and R102. -/
def Obligations.SpecWordsDecode : Prop :=
  decode 0x11800002#32 = .instr (.config 3 2) ∧ decode 0x1180FFFF#32 = .instr (.config 3 (-1)) ∧
  decode 0x202A0007#32 = .instr (.submit 7#16 0x2A#8) ∧ decode 0x30000000#32 = .instr .isbusy ∧
  decode 0x40000000#32 = .instr .shutdown ∧ decode 0x88000007#32 = .instr (.strided true 7#16) ∧
  decode 0x80000007#32 = .instr (.strided false 7#16) ∧ decode 0x90000000#32 = .instr .localRemainder ∧
  decode 0xA0000003#32 = .instr (.ack 3) ∧ decode 0xC02A0007#32 = .instr (.done 0x2A#8 7#16) ∧
  decode 0xE0000101#32 = .instr (.rsp true 1) ∧ decode 0x00000000#32 = .reject .reservedOpcode ∧
  decode 0xF0000000#32 = .reject .reservedOpcode ∧ decode 0x30000001#32 = .reject .reservedBits ∧
  decode 0x11C00002#32 = .reject .reservedBits

/-! ### The step -/

/-- 42_coordinator.md R170, 41_worker.md R148: an enabled move that takes a message of its port executes it, on the state with
the message taken off its channel; the schedule moves on. -/
def Obligations.StepRunsDecodedMessage : Prop :=
  ∀ (s : State) (m : Move) (ms : List Move) (w : Word) (i : Instr),
    s.sched = m :: ms → enabled m { s with sched := ms } = true → fetch m { s with sched := ms } = some w →
    decode w = .instr i → i.port = portOf m { s with sched := ms } → m.isReceive = false →
    step s = exec i (takeOff m { s with sched := ms })

/-- The model's own (log 26): the word that `withFetchWord` places is the message the next step executes. -/
def Obligations.FetchWordRunsNext : Prop :=
  ∀ (s : State) (w : Word) (i : Instr), decode w = .instr i →
    (i.port ≠ .workerCommand → i.port ≠ .hostResponse → step (s.withFetchWord 32 w.toNat) = exec i s) ∧
    (i.port = .hostResponse → step (s.withFetchWord 32 w.toNat) = exec i { s with rsp := none }) ∧
    (i.port = .workerCommand → 0 < s.nt →
      step (s.withFetchWord 32 w.toNat) =
        exec i { (s.setWorker 0 { s.worker 0 with run := .halted, todo := [] }).setCmd 0 [] with acting := 0 })

/-- 30_encoding.md R102: an illegal word on the host command port has no effect and is answered E_ILLEGAL. -/
def Obligations.IllegalHostWordAnswered : Prop :=
  ∀ (s : State) (ms : List Move) (q : List HostAct) (w : Word),
    s.sched = .host :: ms → s.hostq = .word w :: q →
    ((field w 31 28 ≠ 1 ∧ field w 31 28 ≠ 2 ∧ field w 31 28 ≠ 3 ∧ field w 31 28 ≠ 4) ∨
      (field w 31 28 = 1 ∧ field w 22 16 ≠ 0) ∨ (field w 31 28 = 2 ∧ field w 27 24 ≠ 0) ∨
      (field w 31 28 = 3 ∧ field w 27 0 ≠ 0) ∨ (field w 31 28 = 4 ∧ field w 27 0 ≠ 0)) →
    step s = .next { s with sched := ms, hostq := q, seen := s.seen ++ [.response (encode (.rsp s.busy 6))] }

/-- 30_encoding.md R104 and R99, 10_state.md R46: every word on the host command port is answered by exactly one RSP word,
which the host has been given when the command's own step is done; its `busy` bit is `BUSY` after the step and its status one
of the seven of 60_exceptions.md R220. Nothing is left on the response port, and no other step gives the host a response. The
premise is a clause of the engine's invariant (EngineInvariantKept). -/
def Obligations.OneResponsePerHostWord : Prop :=
  ∀ (s t : State) (m : Move) (ms : List Move), s.sched = m :: ms → s.rsp = none → step s = .next t →
    t.rsp = none ∧
    (∀ w q, m = .host → s.hostq = .word w :: q →
      ∃ c, c ≤ 6 ∧ t.seen = s.seen ++ [.response (encode (.rsp t.busy c))]) ∧
    ((∀ w q, ¬ (m = .host ∧ s.hostq = .word w :: q)) →
      t.seen = s.seen ∨ ∃ n, t.seen = s.seen ++ [n] ∧ ∀ w, n ≠ .response w)

/-- 60_exceptions.md R220, 95_test_vectors.md section 9 (7): a command answered with a status other than OK has changed no
state. -/
def Obligations.RejectedCommandChangesNothing : Prop :=
  ∀ (s t : State) (ms : List Move) (q : List HostAct) (w r : Word),
    s.sched = .host :: ms → s.hostq = .word w :: q → step s = .next t → t.seen = s.seen ++ [.response r] →
    field r 7 0 ≠ 0 →
    t = { s with sched := ms, hostq := q, seen := s.seen ++ [.response r] }

/-! ### Integer operations and the LUT -/

/-- 40_lut_bitrev.md R120: bit `b` of `i` becomes bit `nu - 1 - b`; the result is below `2^nu`; higher bits are ignored. -/
def Obligations.BitrevMovesEveryBit : Prop :=
  ∀ nu i : Nat,
    bitrev i nu < 2 ^ nu ∧ bitrev i nu = bitrev (i % 2 ^ nu) nu ∧
    ∀ b, b < nu → (bitrev i nu).testBit (nu - 1 - b) = i.testBit b

/-- 40_lut_bitrev.md R121 (a) to (d). -/
def Obligations.BitrevIsAnInvolution : Prop :=
  ∀ nu i : Nat, i < 2 ^ nu →
    bitrev i nu < 2 ^ nu ∧ bitrev (bitrev i nu) nu = i ∧
    (∀ g, 1 ≤ nu → g < 2 ^ (nu - 1) →
      bitrev (2 * g) nu = bitrev g (nu - 1) ∧ bitrev (2 * g + 1) nu = 2 ^ (nu - 1) + bitrev g (nu - 1)) ∧
    (1 ≤ nu → i % 2 = 0 → bitrev i nu < 2 ^ (nu - 1))

/-- 43_lifecycle.md R201: the smallest power of two that is at least 2 and at least the hint. -/
def Obligations.Ceilpow2IsTheSmallest : Prop :=
  ∀ h : Int,
    (∃ k, 1 ≤ k ∧ ceilpow2 h = 2 ^ k) ∧ h ≤ (ceilpow2 h : Int) ∧
    ∀ k, 1 ≤ k → h ≤ ((2 ^ k : Nat) : Int) → ceilpow2 h ≤ 2 ^ k

/-- 40_lut_bitrev.md R125 P1, P3, P4, P5, of this spec's value for `TwGen` (R124). -/
def Obligations.TwiddleSymmetries : Prop :=
  ∀ nu, 2 ≤ nu → nu ≤ 31 →
    (Twiddle.twGen nu 0 = (0x3F800000#32, 0x00000000#32) ∧
      Twiddle.twGen nu (2 ^ nu / 4) = (0x00000000#32, 0x3F800000#32) ∧
      Twiddle.twGen nu (2 ^ nu / 2) = (0xBF800000#32, 0x00000000#32) ∧
      Twiddle.twGen nu (3 * 2 ^ nu / 4) = (0x00000000#32, 0xBF800000#32)) ∧
    (∀ i, i < 3 * 2 ^ nu / 4 → (Twiddle.twGen nu i).1 = (Twiddle.twGen nu (i + 2 ^ nu / 4)).2) ∧
    (∀ i, 0 < i → i < 2 ^ nu →
      (Twiddle.twGen nu (2 ^ nu - i)).1 = (Twiddle.twGen nu i).1 ∧
      Binary32.units (Twiddle.twGen nu (2 ^ nu - i)).2 = -Binary32.units (Twiddle.twGen nu i).2) ∧
    (∀ i, i < 2 ^ nu → nu + 1 ≤ 31 → Twiddle.twGen (nu + 1) (2 * i) = Twiddle.twGen nu i) ∧
    (∀ j, 3 ≤ nu → j % 2 = 1 → j < 8 →
      (Twiddle.twGen nu (j * 2 ^ (nu - 3))).1.toNat % 2 ^ 31 = 0x3F3504F3 ∧
      (Twiddle.twGen nu (j * 2 ^ (nu - 3))).2.toNat % 2 ^ 31 = 0x3F3504F3)

/-- 40_lut_bitrev.md R127: a first leg (bit `nu1` clear) of group `g` looks up `p = n2 · bitrev(g, s - 1)` in stage
`s = nu - nu1`, which is `bitrev(g, nu - 1)` and below `N/2`. -/
def Obligations.TwiddleIndexInFirstHalf : Prop :=
  ∀ nu nu1 k : Nat, nu1 < nu → k < 2 ^ nu → k.testBit nu1 = false →
    twIndex nu k (nu1 : Int) = bitrev (k / (2 * 2 ^ nu1)) (nu - 1) ∧
    twIndex nu k (nu1 : Int) = 2 ^ nu1 * bitrev (k / (2 * 2 ^ nu1)) (nu - nu1 - 1) ∧
    twIndex nu k (nu1 : Int) < 2 ^ nu / 2

/-! ### binary32 arithmetic -/

/-- 41_worker.md R141 (b), (d), (e): the sum of two finite values is the finite value nearest to the exact sum, to even on a
tie, and an infinity of the right sign exactly from the overflow threshold on. -/
def Obligations.FaddRoundsToNearestEven : Prop :=
  ∀ nan a b : Sample, Binary32.isFinite a = true → Binary32.isFinite b = true →
    Binary32.isNaN (Binary32.fadd nan a b) = false ∧
    (Binary32.isInf (Binary32.fadd nan a b) = true ↔
      (2 ^ 25 - 1) * 2 ^ 252 ≤ (Binary32.units a + Binary32.units b).natAbs) ∧
    (Binary32.isInf (Binary32.fadd nan a b) = true →
      Binary32.sign (Binary32.fadd nan a b) = decide (Binary32.units a + Binary32.units b < 0)) ∧
    (Binary32.isFinite (Binary32.fadd nan a b) = true → ∀ c : Sample, Binary32.isFinite c = true →
      (Binary32.units (Binary32.fadd nan a b) - (Binary32.units a + Binary32.units b)).natAbs ≤
        (Binary32.units c - (Binary32.units a + Binary32.units b)).natAbs ∧
      ((Binary32.units (Binary32.fadd nan a b) - (Binary32.units a + Binary32.units b)).natAbs =
          (Binary32.units c - (Binary32.units a + Binary32.units b)).natAbs →
        Binary32.units c ≠ Binary32.units (Binary32.fadd nan a b) → (Binary32.fadd nan a b).toNat % 2 = 0))

/-- 41_worker.md R141 (b), (d), (e), of the product. -/
def Obligations.FmulRoundsToNearestEven : Prop :=
  ∀ nan a b : Sample, Binary32.isFinite a = true → Binary32.isFinite b = true →
    Binary32.isNaN (Binary32.fmul nan a b) = false ∧
    Binary32.sign (Binary32.fmul nan a b) = (Binary32.sign a != Binary32.sign b) ∧
    (Binary32.isInf (Binary32.fmul nan a b) = true ↔
      (2 ^ 25 - 1) * 2 ^ 252 * 2 ^ 149 ≤ (Binary32.units a * Binary32.units b).natAbs) ∧
    (Binary32.isFinite (Binary32.fmul nan a b) = true → ∀ c : Sample, Binary32.isFinite c = true →
      (2 ^ 149 * Binary32.units (Binary32.fmul nan a b) - Binary32.units a * Binary32.units b).natAbs ≤
        (2 ^ 149 * Binary32.units c - Binary32.units a * Binary32.units b).natAbs ∧
      ((2 ^ 149 * Binary32.units (Binary32.fmul nan a b) - Binary32.units a * Binary32.units b).natAbs =
          (2 ^ 149 * Binary32.units c - Binary32.units a * Binary32.units b).natAbs →
        Binary32.units c ≠ Binary32.units (Binary32.fmul nan a b) → (Binary32.fmul nan a b).toNat % 2 = 0))

/-- 41_worker.md R141 (e), (g): NaN operands, invalid operations, infinities and the signs of zero results. -/
def Obligations.SpecialOperands : Prop :=
  ∀ nan a b : Sample,
    (Binary32.isNaN a = true ∨ Binary32.isNaN b = true →
      Binary32.fadd nan a b = nan ∧ Binary32.fsub nan a b = nan ∧ Binary32.fmul nan a b = nan) ∧
    (Binary32.isInf a = true → Binary32.isInf b = true →
      (Binary32.sign a ≠ Binary32.sign b → Binary32.fadd nan a b = nan) ∧
      (Binary32.sign a = Binary32.sign b → Binary32.fadd nan a b = a ∧ Binary32.fsub nan a b = nan)) ∧
    (Binary32.isInf a = true → Binary32.isFinite b = true →
      Binary32.fadd nan a b = a ∧ Binary32.fadd nan b a = a ∧ Binary32.fsub nan a b = a ∧
      (Binary32.mag b = 0 → Binary32.fmul nan a b = nan ∧ Binary32.fmul nan b a = nan) ∧
      (Binary32.mag b ≠ 0 → Binary32.isInf (Binary32.fmul nan a b) = true ∧
        Binary32.sign (Binary32.fmul nan a b) = (Binary32.sign a != Binary32.sign b))) ∧
    (Binary32.isFinite a = true → Binary32.fsub nan a a = 0x00000000#32) ∧
    (Binary32.isFinite a = true → Binary32.isFinite b = true → Binary32.mag a = 0 → Binary32.mag b = 0 →
      Binary32.fadd nan a b = (if Binary32.sign a = true ∧ Binary32.sign b = true then 0x80000000#32 else 0x00000000#32) ∧
      Binary32.fmul nan a b = (if Binary32.sign a = Binary32.sign b then 0x00000000#32 else 0x80000000#32))

/-- 41_worker.md R141 (g): what is drawn is always a NaN, and no NaN pattern is left out. -/
def Obligations.EveryNaNCanBeDrawn : Prop :=
  (∀ t, Binary32.isNaN (nanDraw t) = true) ∧
  ∀ a : Sample, Binary32.isNaN a = true → ∃ s f, Binary32.mkNaN s f = a

/-- 41_worker.md R141, last sentence: a butterfly without a NaN is a function of its six inputs alone. -/
def Obligations.NanFreeButterflyIgnoresDraws : Prop :=
  ∀ (nan nan' : Nat → Sample) (c s ar ai br bi : Sample),
    (∀ j, Binary32.isNaN (nan j) = true) → (∀ j, Binary32.isNaN (nan' j) = true) →
    Binary32.isNaN (bflyLegs nan c s ar ai br bi).real1 = false →
    Binary32.isNaN (bflyLegs nan c s ar ai br bi).imag1 = false →
    Binary32.isNaN (bflyLegs nan c s ar ai br bi).real2 = false →
    Binary32.isNaN (bflyLegs nan c s ar ai br bi).imag2 = false →
    bflyLegs nan c s ar ai br bi = bflyLegs nan' c s ar ai br bi

/-! ### The butterfly -/

/-- 41_worker.md R140: the four elements of a butterfly after it, from their values before it; every other element and every
register unchanged. The ten NaNs set aside, their numbering and `draws` are the
model's choice (log 13); so is the free value of the shift by a negative `nu1`, which R140 excludes (log 36). -/
def Obligations.ButterflyWritesBothLegs : Prop :=
  ∀ (w k : Nat) (s : State) (ar ai br bi : Sample),
    0 < (s.worker w).n2 →
    s.mem.readEl ⟨(s.worker w).buf, .real, k⟩ = some ar → s.mem.readEl ⟨(s.worker w).buf, .imag, k⟩ = some ai →
    s.mem.readEl ⟨(s.worker w).buf, .real, k + (s.worker w).n2⟩ = some br →
    s.mem.readEl ⟨(s.worker w).buf, .imag, k + (s.worker w).n2⟩ = some bi →
    ∃ t, bfly w k s = .next t ∧ t = { s with mem := t.mem, draws := s.draws + 10 } ∧
      (let nan := fun j => nanDraw (s.draws + j)
       let p := bitrev (shiftRight k (s.worker w).nu1) s.nu
       let tr := Binary32.fadd (nan 2) (Binary32.fmul (nan 0) br (s.cosAt p)) (Binary32.fmul (nan 1) bi (s.sinAt p))
       let ti := Binary32.fsub (nan 5) (Binary32.fmul (nan 3) bi (s.cosAt p)) (Binary32.fmul (nan 4) br (s.sinAt p))
       t.mem.readEl ⟨(s.worker w).buf, .real, k + (s.worker w).n2⟩ = some (Binary32.fsub (nan 6) ar tr) ∧
       t.mem.readEl ⟨(s.worker w).buf, .imag, k + (s.worker w).n2⟩ = some (Binary32.fsub (nan 7) ai ti) ∧
       t.mem.readEl ⟨(s.worker w).buf, .real, k⟩ = some (Binary32.fadd (nan 8) ar tr) ∧
       t.mem.readEl ⟨(s.worker w).buf, .imag, k⟩ = some (Binary32.fadd (nan 9) ai ti)) ∧
      ∀ b : Addr, b.handle ≠ (s.worker w).buf ∨ (b.idx ≠ k ∧ b.idx ≠ k + (s.worker w).n2) →
        t.mem.readEl b = s.mem.readEl b

/-! ### STRIDED and LOCAL -/

/-- 41_worker.md R150, R156: STRIDED completes on a buffer of `N` elements; the descriptor, the report and the frame. That
each butterfly moves `draws` on by ten is the model's choice (log 13), and so is it that a command with no stage left (`n2 = 0`,
41_worker.md R151 (e)) runs, on any buffer, without a butterfly (log 35). -/
def Obligations.StridedCompletes : Prop :=
  ∀ (s : State) (init : Bool) (buf : Handle) (d : Worker) (m : Nat),
    workerCountOk s.nu s.nt = true → s.acting < s.nt →
    d = (if init then { s.worker s.acting with nu1 := (s.nu : Int) - 1, n2 := 2 ^ (s.nu - 1), stagesCompleted := 0,
                                               buf := buf } else s.worker s.acting) →
    d.n2 = 0 ∨ (d.n2 = 2 ^ m ∧ m < s.nu ∧ s.mem.longEnough d.buf s.size = true) →
    ∃ t, exec (.strided init buf) s = .next t ∧
      t = { s with workers := t.workers, mem := t.mem, ackq := s.ackq ++ [encode (.ack s.acting)],
                   draws := s.draws + 10 * (stridedLegs s.size s.nt d.n2 s.acting).length } ∧
      t.worker s.acting = { d with nu1 := d.nu1 - 1, n2 := d.n2 / 2, stagesCompleted := d.stagesCompleted + 1,
                                   run := .halted, todo := [] } ∧
      (∀ v, v ≠ s.acting → t.worker v = s.worker v) ∧
      ∀ b : Addr, b.handle ≠ d.buf ∨
          (∀ k ∈ stridedLegs s.size s.nt d.n2 s.acting, b.idx ≠ k ∧ b.idx ≠ k + d.n2) →
        t.mem.readEl b = s.mem.readEl b

/-- 41_worker.md R150: after STRIDED, the two legs of the `j`-th butterfly of the command hold what R140 gives from the values
they held before it. Which NaNs are drawn, and their numbering, is the model's choice (log 13); the index by a negative `nu1` is a free value
(log 36). -/
def Obligations.StridedAppliesEachButterflyOnce : Prop :=
  ∀ (s t : State) (init : Bool) (buf : Handle) (d : Worker) (m j k : Nat) (ar ai br bi : Sample),
    workerCountOk s.nu s.nt = true → s.acting < s.nt →
    d = (if init then { s.worker s.acting with nu1 := (s.nu : Int) - 1, n2 := 2 ^ (s.nu - 1), stagesCompleted := 0,
                                               buf := buf } else s.worker s.acting) →
    d.n2 = 2 ^ m → m < s.nu → s.mem.longEnough d.buf s.size = true →
    exec (.strided init buf) s = .next t →
    (stridedLegs s.size s.nt d.n2 s.acting)[j]? = some k →
    s.mem.readEl ⟨d.buf, .real, k⟩ = some ar → s.mem.readEl ⟨d.buf, .imag, k⟩ = some ai →
    s.mem.readEl ⟨d.buf, .real, k + d.n2⟩ = some br → s.mem.readEl ⟨d.buf, .imag, k + d.n2⟩ = some bi →
    let r := bflyLegs (fun i => nanDraw (s.draws + 10 * j + i)) (s.cosAt (twIndex s.nu k d.nu1))
      (s.sinAt (twIndex s.nu k d.nu1)) ar ai br bi
    t.mem.readEl ⟨d.buf, .real, k⟩ = some r.real1 ∧ t.mem.readEl ⟨d.buf, .imag, k⟩ = some r.imag1 ∧
    t.mem.readEl ⟨d.buf, .real, k + d.n2⟩ = some r.real2 ∧ t.mem.readEl ⟨d.buf, .imag, k + d.n2⟩ = some r.imag2

/-- 20_memory.md R73: in one STRIDED round every butterfly of the stage is performed by exactly one worker, exactly once, and
two different butterflies share no element. -/
def Obligations.StridedRoundIsAPartition : Prop :=
  ∀ nu nt m : Nat, workerCountOk nu nt = true → m < nu →
    (∀ w k, w < nt → k ∈ stridedLegs (2 ^ nu) nt (2 ^ m) w → k + 2 ^ m < 2 ^ nu ∧ k.testBit m = false) ∧
    (∀ w, w < nt → (stridedLegs (2 ^ nu) nt (2 ^ m) w).Nodup) ∧
    (∀ k, k < 2 ^ nu → k.testBit m = false →
      ∃ w, w < nt ∧ k ∈ stridedLegs (2 ^ nu) nt (2 ^ m) w ∧
        ∀ v, v < nt → k ∈ stridedLegs (2 ^ nu) nt (2 ^ m) v → v = w) ∧
    (∀ k l, k.testBit m = false → l.testBit m = false → k ≠ l → k ≠ l + 2 ^ m ∧ k + 2 ^ m ≠ l + 2 ^ m)

/-- The stops of STRIDED, LOCAL and their butterflies: a bad worker count (93_implementation_defined.md U2, U3) is the model's
refusal, log 16; an element that does not exist
(20_memory.md R60) is the model's fault, log 10. -/
def Obligations.WorkerCommandStops : Prop :=
  ∀ (s : State) (init : Bool) (buf : Handle),
    (workerCountOk s.nu s.nt = false →
      exec (.strided init buf) s = .refused .badWorkerCount ∧ exec .localRemainder s = .refused .badWorkerCount) ∧
    ∀ (w k : Nat) (p : Part),
      s.mem.readEl ⟨(s.worker w).buf, p, k⟩ = none ∨ s.mem.readEl ⟨(s.worker w).buf, p, k + (s.worker w).n2⟩ = none →
      bfly w k s = .fault .noSuchElement

/-- 41_worker.md R153, R154, R156: LOCAL completes on a worker that holds span `2^m`; the descriptor after all `m + 1` stages,
one report, `(m + 1)·2^m` butterflies, and nothing outside the worker's block touched. That each butterfly moves `draws` on by
ten is the model's choice (log 13). On a worker with `n2 = 0` it only reports (log 30, DEDUCED). -/
def Obligations.LocalCompletes : Prop :=
  ∀ (s : State) (d : Worker), workerCountOk s.nu s.nt = true → s.acting < s.nt → d = s.worker s.acting →
    (d.n2 = 0 →
      ∃ t, exec .localRemainder s = .next t ∧
        t = { s with workers := t.workers, ackq := s.ackq ++ [encode (.ack s.acting)] } ∧
        t.worker s.acting = { d with run := .halted, todo := [] } ∧ ∀ v, v ≠ s.acting → t.worker v = s.worker v) ∧
    ∀ m : Nat, d.n2 = 2 ^ m → (s.acting + 1) * (2 * 2 ^ m) ≤ s.size → s.mem.longEnough d.buf s.size = true →
      ∃ t, exec .localRemainder s = .next t ∧
        t = { s with workers := t.workers, mem := t.mem, ackq := s.ackq ++ [encode (.ack s.acting)],
                     draws := s.draws + 10 * ((m + 1) * 2 ^ m) } ∧
        t.worker s.acting = { d with nu1 := d.nu1 - ((m : Int) + 1), n2 := 0,
                                     stagesCompleted := d.stagesCompleted + (m + 1), run := .halted, todo := [] } ∧
        (∀ v, v ≠ s.acting → t.worker v = s.worker v) ∧
        ∀ b : Addr, b.handle ≠ d.buf ∨ b.idx < s.acting * (2 * 2 ^ m) ∨ (s.acting + 1) * (2 * 2 ^ m) ≤ b.idx →
          t.mem.readEl b = s.mem.readEl b

/-- 41_worker.md R153: LOCAL runs every remaining stage of its block in order, each stage the butterflies of R140 on what the
stage before left (the NaNs drawn are some NaNs; the shift by a negative count is a free value, log 36). -/
def Obligations.LocalRunsAllStages : Prop :=
  ∀ (s t : State) (d : Worker) (m : Nat),
    workerCountOk s.nu s.nt = true → s.acting < s.nt → d = s.worker s.acting →
    d.n2 = 2 ^ m → (s.acting + 1) * (2 * 2 ^ m) ≤ s.size → s.mem.longEnough d.buf s.size = true →
    exec .localRemainder s = .next t →
    ∃ mems : Nat → Memory, mems 0 = s.mem ∧ mems (m + 1) = t.mem ∧
      ∀ q, q ≤ m →
        (∀ k, s.acting * (2 * 2 ^ m) ≤ k → k < (s.acting + 1) * (2 * 2 ^ m) → k.testBit (m - q) = false →
          ∀ ar ai br bi,
            (mems q).readEl ⟨d.buf, .real, k⟩ = some ar → (mems q).readEl ⟨d.buf, .imag, k⟩ = some ai →
            (mems q).readEl ⟨d.buf, .real, k + 2 ^ (m - q)⟩ = some br →
            (mems q).readEl ⟨d.buf, .imag, k + 2 ^ (m - q)⟩ = some bi →
            ∃ nan : Nat → Sample, (∀ i, Binary32.isNaN (nan i) = true) ∧
              let p := bitrev (shiftRight k (d.nu1 - (q : Int))) s.nu
              let r := bflyLegs nan (s.cosAt p) (s.sinAt p) ar ai br bi
              (mems (q + 1)).readEl ⟨d.buf, .real, k⟩ = some r.real1 ∧
              (mems (q + 1)).readEl ⟨d.buf, .imag, k⟩ = some r.imag1 ∧
              (mems (q + 1)).readEl ⟨d.buf, .real, k + 2 ^ (m - q)⟩ = some r.real2 ∧
              (mems (q + 1)).readEl ⟨d.buf, .imag, k + 2 ^ (m - q)⟩ = some r.imag2) ∧
        ∀ b : Addr, b.handle ≠ d.buf ∨ b.idx < s.acting * (2 * 2 ^ m) ∨ (s.acting + 1) * (2 * 2 ^ m) ≤ b.idx →
          (mems (q + 1)).readEl b = (mems q).readEl b

/-- 20_memory.md R74, 41_worker.md R155: in every stage of LOCAL each butterfly of the stage lies, both legs, in the block of
exactly one worker, which performs it exactly once. -/
def Obligations.LocalBlocksAreAPartition : Prop :=
  ∀ nu nt q : Nat, workerCountOk nu nt = true → 2 ^ (q + 1) ≤ 2 ^ nu / nt →
    (∀ w k, w < nt → k ∈ blockLegs (w * (2 ^ nu / nt)) (2 ^ nu / nt) (2 ^ q) →
      w * (2 ^ nu / nt) ≤ k ∧ k + 2 ^ q < (w + 1) * (2 ^ nu / nt) ∧ k.testBit q = false) ∧
    (∀ w, w < nt → (blockLegs (w * (2 ^ nu / nt)) (2 ^ nu / nt) (2 ^ q)).Nodup) ∧
    (∀ k, k < 2 ^ nu → k.testBit q = false →
      ∃ w, w < nt ∧ k ∈ blockLegs (w * (2 ^ nu / nt)) (2 ^ nu / nt) (2 ^ q) ∧
        ∀ v, v < nt → k ∈ blockLegs (v * (2 ^ nu / nt)) (2 ^ nu / nt) (2 ^ q) → v = w)

/-- 41_worker.md R148: a whole command in one step is its receipt, its atoms one by one, and its report. -/
def Obligations.WholeCommandIsItsAtoms : Prop :=
  ∀ (s t : State) (w : Nat), enabled (.command w) s = true → perform (.command w) s = .next t →
    ∃ n, performAll (.receive w :: (List.replicate n (.work w) ++ [.report w])) s = .next t

/-! ### CONFIG and SHUTDOWN -/

/-- 43_lifecycle.md R200: the engine a successful CONFIG makes, and what it leaves alone; the tables hold `TwGen`, the
configuration field of 00_scope.md R12. -/
def Obligations.ConfigConstructs : Prop :=
  ∀ (s : State) (nu : Nat) (hint : Int),
    s.st = .unconf → 1 ≤ nu → ceilpow2 hint ≤ 2 ^ nu / 2 → nu ≤ Config.nuMax → ceilpow2 hint ≤ Config.ntMax →
    ∃ t, exec (.config nu hint) s = .next t ∧
      t.st = .idle ∧ t.busy = false ∧ t.buf = none ∧ t.nu = nu ∧ t.nt = ceilpow2 hint ∧ 2 ^ t.sul = ceilpow2 hint ∧
      t.cosTab.length = 2 ^ nu ∧ t.sinTab.length = 2 ^ nu ∧
      (∀ i, i < 2 ^ nu → t.cosAt i = (Config.twGen nu i).1 ∧ t.sinAt i = (Config.twGen nu i).2) ∧
      (∀ w, (t.worker w).run = .halted ∧ (t.worker w).todo = [] ∧ t.cmdAt w = []) ∧ t.ackq = [] ∧
      t.seen = s.seen ++ [.response 0xE0000000#32] ∧ t.mem = s.mem ∧ t.evq = s.evq ∧ t.hostq = s.hostq ∧ t.rsp = s.rsp ∧
      t.sched = s.sched ∧ t.acting = s.acting ∧ t.spoiled = s.spoiled

/-- 43_lifecycle.md R200, R202 to R204, in the order of 60_exceptions.md R232: a CONFIG that fails changes no state. -/
def Obligations.ConfigFailures : Prop :=
  ∀ (s : State) (nu : Nat) (hint : Int),
    (s.st ≠ .unconf →
      exec (.config nu hint) s = .next { s with seen := s.seen ++ [.response (encode (.rsp s.busy 5))] }) ∧
    (s.st = .unconf → nu < 1 ∨ 2 ^ nu / 2 < ceilpow2 hint →
      exec (.config nu hint) s = .next { s with seen := s.seen ++ [.response (encode (.rsp s.busy 2))] }) ∧
    (s.st = .unconf → 1 ≤ nu → ceilpow2 hint ≤ 2 ^ nu / 2 → Config.nuMax < nu ∨ Config.ntMax < ceilpow2 hint →
      exec (.config nu hint) s = .next { s with seen := s.seen ++ [.response (encode (.rsp s.busy 4))] })

/-- 43_lifecycle.md R204, R205: SHUTDOWN from idle, and in UNCONF. -/
def Obligations.ShutdownReleases : Prop :=
  ∀ s : State,
    (s.st ≠ .unconf → s.busy = false →
      ∃ t, exec .shutdown s = .next t ∧ t.st = .unconf ∧ t.busy = false ∧ t.seen = s.seen ++ [.response 0xE0000000#32] ∧
        (∀ w, (t.worker w).run = .halted ∧ (t.worker w).todo = []) ∧ t.cmdq = s.cmdq ∧ t.ackq = s.ackq ∧
        t.evq = s.evq ∧ t.mem = s.mem ∧ t.hostq = s.hostq ∧ t.rsp = s.rsp ∧ t.sched = s.sched ∧
        t.acting = s.acting ∧ t.spoiled = s.spoiled) ∧
    (s.st = .unconf → exec .shutdown s = .next { s with seen := s.seen ++ [.response (encode (.rsp s.busy 5))] })

/-- 43_lifecycle.md R206: SHUTDOWN during a transform ends the modelled run. -/
def Obligations.ShutdownInFlightFaults : Prop :=
  ∀ s : State, s.st ≠ .unconf → s.busy = true → exec .shutdown s = .fault .shutdownInFlight

/-! ### SUBMIT and ISBUSY -/

/-- 42_coordinator.md R171, R176, 10_state.md R49: an accepted SUBMIT. -/
def Obligations.SubmitStartsATransform : Prop :=
  ∀ (s : State) (buf : Handle) (cb : Callback),
    s.st ≠ .unconf → s.busy = false → s.size ≤ (s.mem.lookup buf.toNat).real.length →
    s.size ≤ (s.mem.lookup buf.toNat).imag.length →
    ∃ t, exec (.submit buf cb) s = .next t ∧
      t = { s with busy := true, buf := some buf, cb := cb, phase := 2, rk := 0, notified := false, st := .dist,
                   pack := s.nt, spoiled := false, cmdq := t.cmdq, seen := s.seen ++ [.response 0xE0000100#32] } ∧
      (∀ w, w < s.nt → t.cmdAt w = s.cmdAt w ++ [encode (.strided true buf)]) ∧
      ∀ w, s.nt ≤ w → t.cmdAt w = s.cmdAt w

/-- 42_coordinator.md R172 to R174: a SUBMIT that is not accepted changes no state; the order of its tests. -/
def Obligations.SubmitRejections : Prop :=
  ∀ (s : State) (buf : Handle) (cb : Callback),
    (s.st = .unconf → exec (.submit buf cb) s = .next { s with seen := s.seen ++ [.response (encode (.rsp s.busy 5))] }) ∧
    (s.st ≠ .unconf → s.busy = true →
      exec (.submit buf cb) s = .next { s with seen := s.seen ++ [.response 0xE0000101#32] }) ∧
    (s.st ≠ .unconf → s.busy = false →
      (s.mem.lookup buf.toNat).real.length < s.size ∨ (s.mem.lookup buf.toNat).imag.length < s.size →
      exec (.submit buf cb) s = .next { s with seen := s.seen ++ [.response 0xE0000003#32] })

/-- 42_coordinator.md R175, the `busy` bit by 30_encoding.md R99. That in UNCONF it is `BUSY`, where R175 writes 0, is the
model's reading (log 25, DEDUCED). -/
def Obligations.IsbusyAnswersBusy : Prop :=
  ∀ s : State,
    (s.st = .unconf → exec .isbusy s = .next { s with seen := s.seen ++ [.response (encode (.rsp s.busy 5))] }) ∧
    (s.st ≠ .unconf → exec .isbusy s =
      .next { s with seen := s.seen ++ [.response (if s.busy then 0xE0000100#32 else 0xE0000000#32)] })

/-! ### The barrier -/

/-- 42_coordinator.md R177: a report that is not the last of its round is counted, whatever its `id`. -/
def Obligations.AckIsCounted : Prop :=
  ∀ (s : State) (id : Nat), s.st = .dist ∨ s.st = .localPhase → 2 ≤ s.pack →
    exec (.ack id) s = .next { s with pack := s.pack - 1 }

/-- 42_coordinator.md R179, R176: the last report of a STRIDED round, with rounds left, and after the last of them. -/
def Obligations.LastAckOfADistributedRound : Prop :=
  ∀ (s : State) (id : Nat), s.st = .dist → s.pack = 1 →
    (∀ h, s.phase < s.nt → s.buf = some h →
      ∃ t, exec (.ack id) s = .next t ∧ t = { s with pack := s.nt, phase := s.phase * 2, cmdq := t.cmdq } ∧
        (∀ w, w < s.nt → t.cmdAt w = s.cmdAt w ++ [encode (.strided false h)]) ∧
        ∀ w, s.nt ≤ w → t.cmdAt w = s.cmdAt w) ∧
    (s.nt ≤ s.phase →
      ∃ t, exec (.ack id) s = .next t ∧ t = { s with pack := s.nt, st := .localPhase, cmdq := t.cmdq } ∧
        (∀ w, w < s.nt → t.cmdAt w = s.cmdAt w ++ [0x90000000#32]) ∧
        ∀ w, s.nt ≤ w → t.cmdAt w = s.cmdAt w)

/-- 42_coordinator.md R181: the last report of the LOCAL round. -/
def Obligations.LastAckOfTheLocalRound : Prop :=
  ∀ (s : State) (id : Nat), s.st = .localPhase → s.pack = 1 →
    exec (.ack id) s = .next { s with pack := 0, st := .reord, rk := 0, notified := false }

/-- A report that nobody awaits is unreachable (42_coordinator.md R177, 30_encoding.md R103): the model's refusal, log 17. -/
def Obligations.StrayAckRefused : Prop :=
  ∀ (s : State) (id : Nat), (s.st ≠ .dist ∧ s.st ≠ .localPhase) ∨ s.pack = 0 →
    exec (.ack id) s = .refused .strayReport

/-- 10_state.md R45: the outcome does not depend on which pending report is taken. -/
def Obligations.ReportOrderDoesNotMatter : Prop :=
  ∀ (s t u : State) (i j : Nat), perform (.collect i) s = .next t → perform (.collect j) s = .next u →
    i < s.ackq.length → j < s.ackq.length → u = { t with ackq := s.ackq.eraseIdx j }

/-! ### The reorder pass and the completion -/

/-- 42_coordinator.md R182: one reorder step. -/
def Obligations.ReorderStepExchanges : Prop :=
  ∀ (s : State) (ms : List Move) (h : Handle),
    s.sched = .reorder :: ms → s.st = .reord → s.rk < s.size → s.buf = some h → s.mem.longEnough h s.size = true →
    ∃ t, step s = .next t ∧ t = { s with sched := ms, rk := s.rk + 1, mem := t.mem } ∧
      (s.rk < bitrev s.rk s.nu → ∀ p,
        t.mem.readEl ⟨h, p, s.rk⟩ = s.mem.readEl ⟨h, p, bitrev s.rk s.nu⟩ ∧
        t.mem.readEl ⟨h, p, bitrev s.rk s.nu⟩ = s.mem.readEl ⟨h, p, s.rk⟩) ∧
      ∀ b : Addr, bitrev s.rk s.nu ≤ s.rk ∨ b.handle ≠ h ∨ (b.idx ≠ s.rk ∧ b.idx ≠ bitrev s.rk s.nu) →
        t.mem.readEl b = s.mem.readEl b

/-- 42_coordinator.md R183: the whole pass puts at `k` what was at `bitrev(k, NU)`, in both sequences. -/
def Obligations.ReorderPassPermutes : Prop :=
  ∀ (s : State) (h : Handle), s.st = .reord → s.rk = 0 → s.buf = some h → s.mem.longEnough h s.size = true →
    ∃ t, performAll (List.replicate s.size .reorder) s = .next t ∧ t = { s with rk := s.size, mem := t.mem } ∧
      (∀ p k, k < s.size → t.mem.readEl ⟨h, p, k⟩ = s.mem.readEl ⟨h, p, bitrev k s.nu⟩) ∧
      ∀ b : Addr, b.handle ≠ h ∨ s.size ≤ b.idx → t.mem.readEl b = s.mem.readEl b

/-- 42_coordinator.md R184: the notify step, the host having kept its hands off the buffer. -/
def Obligations.NotifyEmitsDone : Prop :=
  ∀ (s : State) (ms : List Move) (h : Handle),
    s.sched = .notify :: ms → s.st = .reord → s.rk = s.size → s.notified = false → s.buf = some h → s.spoiled = false →
    step s = .next { s with sched := ms, evq := s.evq ++ [encode (.done s.cb h)], buf := none, notified := true }

/-- 42_coordinator.md R185: the return to idle. -/
def Obligations.ReturnToIdle : Prop :=
  ∀ (s : State) (ms : List Move), s.sched = .toIdle :: ms → s.st = .reord → s.notified = true →
    step s = .next { s with sched := ms, st := .idle, busy := false }

/-- 60_exceptions.md R230, 10_state.md R46: the host takes the oldest pending completion, which names its callback. What it
is told of is kept in `seen` (log 4). RSP gives the host its word; between two steps a word stands on the response port only
where `withFetchWord` has put it, which is the model's choice (log 26). -/
def Obligations.HostTakesInOrder : Prop :=
  (∀ (s : State) (cb : Callback) (buf : Handle),
    exec (.done cb buf) s = .next { s with seen := s.seen ++ [.completion cb buf] } ∧
    ∀ (ms : List Move) (q : List HostAct) (e : List Word),
      s.sched = .host :: ms → s.hostq = .waitDone :: q → s.evq = encode (.done cb buf) :: e →
      step s = .next { s with sched := ms, hostq := q, evq := e, seen := s.seen ++ [.completion cb buf] }) ∧
  ∀ (s : State) (busy : Bool) (status : Nat),
    exec (.rsp busy status) s = .next { s with seen := s.seen ++ [.response (encode (.rsp busy status))] } ∧
    ∀ (ms : List Move), status < 256 → s.sched = .response :: ms → s.rsp = some (encode (.rsp busy status)) →
      step s = .next { s with sched := ms, rsp := none, seen := s.seen ++ [.response (encode (.rsp busy status))] }

/-- 42_coordinator.md R184, 60_exceptions.md R230: a completion is emitted by the notify step alone, one a time, and the
buffer is given up in the same step; nothing else adds to `evq`. -/
def Obligations.OnlyNotifyEmitsDone : Prop :=
  ∀ (s t : State) (m : Move) (ms : List Move), s.sched = m :: ms → step s = .next t →
    t.evq = s.evq ∨ (m = .host ∧ t.evq = s.evq.tail) ∨
      (m = .notify ∧ t.buf = none ∧ t.notified = true ∧
        ∃ h, s.buf = some h ∧ t.evq = s.evq ++ [encode (.done s.cb h)])

/-! ### The lent buffer -/

/-- 20_memory.md R81, 93_implementation_defined.md U4: a host read of a lent element returns a draw; a host write to one makes
every element the engine owns a draw; elsewhere both are plain. -/
def Obligations.HostAccessToLentBuffer : Prop :=
  ∀ (s : State) (ms : List Move) (q : List HostAct) (a : Addr) (u v : Sample),
    s.sched = .host :: ms → s.mem.readEl a = some u →
    (s.hostq = .read a :: q →
      (s.buf = some a.handle ∧ a.idx < s.size →
        step s = .next { s with sched := ms, hostq := q, draws := s.draws + 1,
                                seen := s.seen ++ [.datum (Config.freeSample s.draws)] }) ∧
      (s.buf ≠ some a.handle ∨ s.size ≤ a.idx →
        step s = .next { s with sched := ms, hostq := q, seen := s.seen ++ [.datum u] })) ∧
    (s.hostq = .write a v :: q →
      (s.buf = some a.handle ∧ a.idx < s.size →
        ∃ t, step s = .next t ∧
          t = { s with sched := ms, hostq := q, mem := t.mem, draws := s.draws + 2 * s.size, spoiled := true } ∧
          (∀ p i x, i < s.size → s.mem.readEl ⟨a.handle, p, i⟩ = some x →
            ∃ d, t.mem.readEl ⟨a.handle, p, i⟩ = some (Config.freeSample d) ∧ s.draws ≤ d ∧ d < t.draws) ∧
          ∀ b : Addr, b.handle ≠ a.handle ∨ s.size ≤ b.idx → t.mem.readEl b = s.mem.readEl b) ∧
      (s.buf ≠ some a.handle ∨ s.size ≤ a.idx →
        ∃ t, step s = .next t ∧ t = { s with sched := ms, hostq := q, mem := t.mem } ∧
          t.mem.readEl a = some v ∧ ∀ b, b ≠ a → t.mem.readEl b = s.mem.readEl b))

/-- 20_memory.md R62: no step of the engine touches an element it does not own. -/
def Obligations.EngineTouchesOnlyWhatItOwns : Prop :=
  ∀ (s t : State) (m : Move) (ms : List Move), s.Inv → s.sched = m :: ms → m ≠ .host → step s = .next t →
    ∀ b : Addr, s.buf ≠ some b.handle ∨ s.size ≤ b.idx → t.mem.readEl b = s.mem.readEl b

/-! ### Whole-machine rules -/

/-- 10_state.md R31: `BUSY = 1` exactly when `ST` is DIST, LOCAL or REORD; every step keeps it. -/
def Obligations.BusyTellsATransform : Prop :=
  ∀ s t : State, (s.busy = true ↔ s.st = .dist ∨ s.st = .localPhase ∨ s.st = .reord) → step s = .next t →
    (t.busy = true ↔ t.st = .dist ∨ t.st = .localPhase ∨ t.st = .reord)

/-- 10_state.md R31: `BUSY` is set by an accepted SUBMIT alone, and cleared by the return to idle or CONFIG alone. -/
def Obligations.WhoWritesBusy : Prop :=
  ∀ (s t : State) (m : Move) (ms : List Move), s.sched = m :: ms → step s = .next t → s.busy ≠ t.busy →
    (t.busy = true ∧ m = .host ∧
      ∃ w q buf cb, s.hostq = .word w :: q ∧ decode w = .instr (.submit buf cb) ∧ s.mem.longEnough buf s.size = true) ∨
    (t.busy = false ∧ (m = .toIdle ∨
      m = .host ∧ ∃ w q nu hint, s.hostq = .word w :: q ∧ decode w = .instr (.config nu hint)))

/-- 10_state.md R42, R35, 20_memory.md R64: the LUT, `NU`, `NT` and `SUL` are written by CONFIG alone, and constant until
SHUTDOWN, which releases them. -/
def Obligations.LutAndSizesAreConstant : Prop :=
  ∀ (s t : State) (m : Move) (ms : List Move), s.sched = m :: ms → step s = .next t →
    (t.cosTab = s.cosTab ∧ t.sinTab = s.sinTab ∧ t.nu = s.nu ∧ t.nt = s.nt ∧ t.sul = s.sul) ∨
    (m = .host ∧ ∃ w q, s.hostq = .word w :: q ∧
      ((s.st = .unconf ∧ ∃ nu hint, decode w = .instr (.config nu hint)) ∨
        (s.st ≠ .unconf ∧ decode w = .instr .shutdown)))

/-- 10_state.md R20: the descriptor of a worker is written by no step of another worker, nor by the coordinator outside
CONFIG and SHUTDOWN. -/
def Obligations.DescriptorsArePrivate : Prop :=
  ∀ (s t : State) (m : Move) (ms : List Move) (v : Nat), s.sched = m :: ms → step s = .next t →
    m ≠ .command v → m ≠ .receive v → m ≠ .work v → m ≠ .report v → m ≠ .host → t.worker v = s.worker v

/-- The canonical form of the sample memory (log 10) is kept by every step. -/
def Obligations.MemoryStaysCanonical : Prop :=
  ∀ s t : State, s.mem.wf = true → step s = .next t → t.mem.wf = true

/-- 00_scope.md R9, R10, 10_state.md R33, R35, R42: what holds of a configured engine is kept by every step. -/
def Obligations.ConfiguredEngineStaysOk : Prop :=
  ∀ s t : State, (s.st ≠ .unconf → s.ConfiguredOk) → step s = .next t → t.st ≠ .unconf → t.ConfiguredOk

/-- The invariant of the whole engine (10_state.md R28, R31, R32, R34, R44, R45, R47) is kept by every step. -/
def Obligations.EngineInvariantKept : Prop :=
  ∀ s t : State, s.Inv → step s = .next t → t.Inv

/-- The engine's invariant holds at power-on. -/
def Obligations.EngineInvariantAtReset : Prop := State.reset.Inv

/-- 10_state.md R48, 70_reset_and_hazards.md R250: the values the spec gives at power-on. -/
def Obligations.PowerOnState : Prop :=
  State.reset.st = .unconf ∧ State.reset.busy = false ∧ State.reset.buf = none ∧ State.reset.ackq = [] ∧
  State.reset.evq = [] ∧ ∀ w, (State.reset.worker w).run = .halted ∧ State.reset.cmdAt w = []

/-- 30_encoding.md R103, 93_implementation_defined.md U2, U3, U6: from a state of the engine's invariant no step is refused. -/
def Obligations.NothingIsRefused : Prop :=
  ∀ (s : State) (r : Refusal), s.Inv → step s ≠ .refused r

/-- 41_worker.md R159, 60_exceptions.md R233: from a state of the engine's invariant a run stops only by what the host does:
SHUTDOWN in flight, an access outside its buffers, a rebinding of a lent handle. -/
def Obligations.OnlyTheHostCanStopARun : Prop :=
  ∀ (s : State) (r : Fault), s.Inv → step s = .fault r → r.isHosts = true

/-- 42_coordinator.md R188: from every state of a transform the engine can go on by itself to its completion and to idle: its
DONE is the one of this transform, if it has not been emitted yet. This stands in the place of R188's fairness, which the model
leaves out (log 28). -/
def Obligations.EveryTransformCanComplete : Prop :=
  ∀ s : State, s.Inv → s.inTransform = true →
    ∃ (ms : List Move) (t : State), (∀ m ∈ ms, m ≠ .host) ∧ performAll ms s = .next t ∧ t.st = .idle ∧ t.busy = false ∧
      t.hostq = s.hostq ∧
      (∀ h, s.buf = some h → t.evq = s.evq ++ [encode (.done s.cb h)]) ∧ (s.buf = none → t.evq = s.evq)
end

