-- ==== Sys2Proof/Laws/State.lean ====
section
/-! SUPPORT. Each named update of the state, field by field: what it leaves alone, and the fields it writes. -/

namespace Sys2Proof.Machine

/-! ### `State.setWorker` -/

@[simp] theorem State.setWorker_st (s : State) (i : Nat) (w : Worker) : (s.setWorker i w).st = s.st := rfl

@[simp] theorem State.setWorker_busy (s : State) (i : Nat) (w : Worker) : (s.setWorker i w).busy = s.busy := rfl

@[simp] theorem State.setWorker_phase (s : State) (i : Nat) (w : Worker) : (s.setWorker i w).phase = s.phase := rfl

@[simp] theorem State.setWorker_sul (s : State) (i : Nat) (w : Worker) : (s.setWorker i w).sul = s.sul := rfl

@[simp] theorem State.setWorker_pack (s : State) (i : Nat) (w : Worker) : (s.setWorker i w).pack = s.pack := rfl

@[simp] theorem State.setWorker_nu (s : State) (i : Nat) (w : Worker) : (s.setWorker i w).nu = s.nu := rfl

@[simp] theorem State.setWorker_nt (s : State) (i : Nat) (w : Worker) : (s.setWorker i w).nt = s.nt := rfl

@[simp] theorem State.setWorker_rk (s : State) (i : Nat) (w : Worker) : (s.setWorker i w).rk = s.rk := rfl

@[simp] theorem State.setWorker_notified (s : State) (i : Nat) (w : Worker) : (s.setWorker i w).notified = s.notified := rfl

@[simp] theorem State.setWorker_buf (s : State) (i : Nat) (w : Worker) : (s.setWorker i w).buf = s.buf := rfl

@[simp] theorem State.setWorker_cb (s : State) (i : Nat) (w : Worker) : (s.setWorker i w).cb = s.cb := rfl

@[simp] theorem State.setWorker_cosTab (s : State) (i : Nat) (w : Worker) : (s.setWorker i w).cosTab = s.cosTab := rfl

@[simp] theorem State.setWorker_sinTab (s : State) (i : Nat) (w : Worker) : (s.setWorker i w).sinTab = s.sinTab := rfl

@[simp] theorem State.setWorker_mem (s : State) (i : Nat) (w : Worker) : (s.setWorker i w).mem = s.mem := rfl

@[simp] theorem State.setWorker_cmdq (s : State) (i : Nat) (w : Worker) : (s.setWorker i w).cmdq = s.cmdq := rfl

@[simp] theorem State.setWorker_ackq (s : State) (i : Nat) (w : Worker) : (s.setWorker i w).ackq = s.ackq := rfl

@[simp] theorem State.setWorker_evq (s : State) (i : Nat) (w : Worker) : (s.setWorker i w).evq = s.evq := rfl

@[simp] theorem State.setWorker_rsp (s : State) (i : Nat) (w : Worker) : (s.setWorker i w).rsp = s.rsp := rfl

@[simp] theorem State.setWorker_hostq (s : State) (i : Nat) (w : Worker) : (s.setWorker i w).hostq = s.hostq := rfl

@[simp] theorem State.setWorker_seen (s : State) (i : Nat) (w : Worker) : (s.setWorker i w).seen = s.seen := rfl

@[simp] theorem State.setWorker_sched (s : State) (i : Nat) (w : Worker) : (s.setWorker i w).sched = s.sched := rfl

@[simp] theorem State.setWorker_acting (s : State) (i : Nat) (w : Worker) : (s.setWorker i w).acting = s.acting := rfl

@[simp] theorem State.setWorker_draws (s : State) (i : Nat) (w : Worker) : (s.setWorker i w).draws = s.draws := rfl

@[simp] theorem State.setWorker_spoiled (s : State) (i : Nat) (w : Worker) : (s.setWorker i w).spoiled = s.spoiled := rfl

/-! ### `State.setCmd` -/

@[simp] theorem State.setCmd_st (s : State) (i : Nat) (q : List Word) : (s.setCmd i q).st = s.st := rfl

@[simp] theorem State.setCmd_busy (s : State) (i : Nat) (q : List Word) : (s.setCmd i q).busy = s.busy := rfl

@[simp] theorem State.setCmd_phase (s : State) (i : Nat) (q : List Word) : (s.setCmd i q).phase = s.phase := rfl

@[simp] theorem State.setCmd_sul (s : State) (i : Nat) (q : List Word) : (s.setCmd i q).sul = s.sul := rfl

@[simp] theorem State.setCmd_pack (s : State) (i : Nat) (q : List Word) : (s.setCmd i q).pack = s.pack := rfl

@[simp] theorem State.setCmd_nu (s : State) (i : Nat) (q : List Word) : (s.setCmd i q).nu = s.nu := rfl

@[simp] theorem State.setCmd_nt (s : State) (i : Nat) (q : List Word) : (s.setCmd i q).nt = s.nt := rfl

@[simp] theorem State.setCmd_rk (s : State) (i : Nat) (q : List Word) : (s.setCmd i q).rk = s.rk := rfl

@[simp] theorem State.setCmd_notified (s : State) (i : Nat) (q : List Word) : (s.setCmd i q).notified = s.notified := rfl

@[simp] theorem State.setCmd_buf (s : State) (i : Nat) (q : List Word) : (s.setCmd i q).buf = s.buf := rfl

@[simp] theorem State.setCmd_cb (s : State) (i : Nat) (q : List Word) : (s.setCmd i q).cb = s.cb := rfl

@[simp] theorem State.setCmd_workers (s : State) (i : Nat) (q : List Word) : (s.setCmd i q).workers = s.workers := rfl

@[simp] theorem State.setCmd_cosTab (s : State) (i : Nat) (q : List Word) : (s.setCmd i q).cosTab = s.cosTab := rfl

@[simp] theorem State.setCmd_sinTab (s : State) (i : Nat) (q : List Word) : (s.setCmd i q).sinTab = s.sinTab := rfl

@[simp] theorem State.setCmd_mem (s : State) (i : Nat) (q : List Word) : (s.setCmd i q).mem = s.mem := rfl

@[simp] theorem State.setCmd_ackq (s : State) (i : Nat) (q : List Word) : (s.setCmd i q).ackq = s.ackq := rfl

@[simp] theorem State.setCmd_evq (s : State) (i : Nat) (q : List Word) : (s.setCmd i q).evq = s.evq := rfl

@[simp] theorem State.setCmd_rsp (s : State) (i : Nat) (q : List Word) : (s.setCmd i q).rsp = s.rsp := rfl

@[simp] theorem State.setCmd_hostq (s : State) (i : Nat) (q : List Word) : (s.setCmd i q).hostq = s.hostq := rfl

@[simp] theorem State.setCmd_seen (s : State) (i : Nat) (q : List Word) : (s.setCmd i q).seen = s.seen := rfl

@[simp] theorem State.setCmd_sched (s : State) (i : Nat) (q : List Word) : (s.setCmd i q).sched = s.sched := rfl

@[simp] theorem State.setCmd_acting (s : State) (i : Nat) (q : List Word) : (s.setCmd i q).acting = s.acting := rfl

@[simp] theorem State.setCmd_draws (s : State) (i : Nat) (q : List Word) : (s.setCmd i q).draws = s.draws := rfl

@[simp] theorem State.setCmd_spoiled (s : State) (i : Nat) (q : List Word) : (s.setCmd i q).spoiled = s.spoiled := rfl

/-! ### `State.tell` -/

@[simp] theorem State.tell_st (s : State) (n : HostNote) : (s.tell n).st = s.st := rfl

@[simp] theorem State.tell_busy (s : State) (n : HostNote) : (s.tell n).busy = s.busy := rfl

@[simp] theorem State.tell_phase (s : State) (n : HostNote) : (s.tell n).phase = s.phase := rfl

@[simp] theorem State.tell_sul (s : State) (n : HostNote) : (s.tell n).sul = s.sul := rfl

@[simp] theorem State.tell_pack (s : State) (n : HostNote) : (s.tell n).pack = s.pack := rfl

@[simp] theorem State.tell_nu (s : State) (n : HostNote) : (s.tell n).nu = s.nu := rfl

@[simp] theorem State.tell_nt (s : State) (n : HostNote) : (s.tell n).nt = s.nt := rfl

@[simp] theorem State.tell_rk (s : State) (n : HostNote) : (s.tell n).rk = s.rk := rfl

@[simp] theorem State.tell_notified (s : State) (n : HostNote) : (s.tell n).notified = s.notified := rfl

@[simp] theorem State.tell_buf (s : State) (n : HostNote) : (s.tell n).buf = s.buf := rfl

@[simp] theorem State.tell_cb (s : State) (n : HostNote) : (s.tell n).cb = s.cb := rfl

@[simp] theorem State.tell_workers (s : State) (n : HostNote) : (s.tell n).workers = s.workers := rfl

@[simp] theorem State.tell_cosTab (s : State) (n : HostNote) : (s.tell n).cosTab = s.cosTab := rfl

@[simp] theorem State.tell_sinTab (s : State) (n : HostNote) : (s.tell n).sinTab = s.sinTab := rfl

@[simp] theorem State.tell_mem (s : State) (n : HostNote) : (s.tell n).mem = s.mem := rfl

@[simp] theorem State.tell_cmdq (s : State) (n : HostNote) : (s.tell n).cmdq = s.cmdq := rfl

@[simp] theorem State.tell_ackq (s : State) (n : HostNote) : (s.tell n).ackq = s.ackq := rfl

@[simp] theorem State.tell_evq (s : State) (n : HostNote) : (s.tell n).evq = s.evq := rfl

@[simp] theorem State.tell_rsp (s : State) (n : HostNote) : (s.tell n).rsp = s.rsp := rfl

@[simp] theorem State.tell_hostq (s : State) (n : HostNote) : (s.tell n).hostq = s.hostq := rfl

@[simp] theorem State.tell_sched (s : State) (n : HostNote) : (s.tell n).sched = s.sched := rfl

@[simp] theorem State.tell_acting (s : State) (n : HostNote) : (s.tell n).acting = s.acting := rfl

@[simp] theorem State.tell_draws (s : State) (n : HostNote) : (s.tell n).draws = s.draws := rfl

@[simp] theorem State.tell_spoiled (s : State) (n : HostNote) : (s.tell n).spoiled = s.spoiled := rfl

/-! ### `State.respond` -/

@[simp] theorem State.respond_st (s : State) (c : Status) : (s.respond c).st = s.st := rfl

@[simp] theorem State.respond_busy (s : State) (c : Status) : (s.respond c).busy = s.busy := rfl

@[simp] theorem State.respond_phase (s : State) (c : Status) : (s.respond c).phase = s.phase := rfl

@[simp] theorem State.respond_sul (s : State) (c : Status) : (s.respond c).sul = s.sul := rfl

@[simp] theorem State.respond_pack (s : State) (c : Status) : (s.respond c).pack = s.pack := rfl

@[simp] theorem State.respond_nu (s : State) (c : Status) : (s.respond c).nu = s.nu := rfl

@[simp] theorem State.respond_nt (s : State) (c : Status) : (s.respond c).nt = s.nt := rfl

@[simp] theorem State.respond_rk (s : State) (c : Status) : (s.respond c).rk = s.rk := rfl

@[simp] theorem State.respond_notified (s : State) (c : Status) : (s.respond c).notified = s.notified := rfl

@[simp] theorem State.respond_buf (s : State) (c : Status) : (s.respond c).buf = s.buf := rfl

@[simp] theorem State.respond_cb (s : State) (c : Status) : (s.respond c).cb = s.cb := rfl

@[simp] theorem State.respond_workers (s : State) (c : Status) : (s.respond c).workers = s.workers := rfl

@[simp] theorem State.respond_cosTab (s : State) (c : Status) : (s.respond c).cosTab = s.cosTab := rfl

@[simp] theorem State.respond_sinTab (s : State) (c : Status) : (s.respond c).sinTab = s.sinTab := rfl

@[simp] theorem State.respond_mem (s : State) (c : Status) : (s.respond c).mem = s.mem := rfl

@[simp] theorem State.respond_cmdq (s : State) (c : Status) : (s.respond c).cmdq = s.cmdq := rfl

@[simp] theorem State.respond_ackq (s : State) (c : Status) : (s.respond c).ackq = s.ackq := rfl

@[simp] theorem State.respond_evq (s : State) (c : Status) : (s.respond c).evq = s.evq := rfl

@[simp] theorem State.respond_rsp (s : State) (c : Status) : (s.respond c).rsp = s.rsp := rfl

@[simp] theorem State.respond_hostq (s : State) (c : Status) : (s.respond c).hostq = s.hostq := rfl

@[simp] theorem State.respond_sched (s : State) (c : Status) : (s.respond c).sched = s.sched := rfl

@[simp] theorem State.respond_acting (s : State) (c : Status) : (s.respond c).acting = s.acting := rfl

@[simp] theorem State.respond_draws (s : State) (c : Status) : (s.respond c).draws = s.draws := rfl

@[simp] theorem State.respond_spoiled (s : State) (c : Status) : (s.respond c).spoiled = s.spoiled := rfl

/-! ### `State.broadcast` -/

@[simp] theorem State.broadcast_st (s : State) (m : Instr) : (s.broadcast m).st = s.st := rfl

@[simp] theorem State.broadcast_busy (s : State) (m : Instr) : (s.broadcast m).busy = s.busy := rfl

@[simp] theorem State.broadcast_phase (s : State) (m : Instr) : (s.broadcast m).phase = s.phase := rfl

@[simp] theorem State.broadcast_sul (s : State) (m : Instr) : (s.broadcast m).sul = s.sul := rfl

@[simp] theorem State.broadcast_nu (s : State) (m : Instr) : (s.broadcast m).nu = s.nu := rfl

@[simp] theorem State.broadcast_nt (s : State) (m : Instr) : (s.broadcast m).nt = s.nt := rfl

@[simp] theorem State.broadcast_rk (s : State) (m : Instr) : (s.broadcast m).rk = s.rk := rfl

@[simp] theorem State.broadcast_notified (s : State) (m : Instr) : (s.broadcast m).notified = s.notified := rfl

@[simp] theorem State.broadcast_buf (s : State) (m : Instr) : (s.broadcast m).buf = s.buf := rfl

@[simp] theorem State.broadcast_cb (s : State) (m : Instr) : (s.broadcast m).cb = s.cb := rfl

@[simp] theorem State.broadcast_workers (s : State) (m : Instr) : (s.broadcast m).workers = s.workers := rfl

@[simp] theorem State.broadcast_cosTab (s : State) (m : Instr) : (s.broadcast m).cosTab = s.cosTab := rfl

@[simp] theorem State.broadcast_sinTab (s : State) (m : Instr) : (s.broadcast m).sinTab = s.sinTab := rfl

@[simp] theorem State.broadcast_mem (s : State) (m : Instr) : (s.broadcast m).mem = s.mem := rfl

@[simp] theorem State.broadcast_ackq (s : State) (m : Instr) : (s.broadcast m).ackq = s.ackq := rfl

@[simp] theorem State.broadcast_evq (s : State) (m : Instr) : (s.broadcast m).evq = s.evq := rfl

@[simp] theorem State.broadcast_rsp (s : State) (m : Instr) : (s.broadcast m).rsp = s.rsp := rfl

@[simp] theorem State.broadcast_hostq (s : State) (m : Instr) : (s.broadcast m).hostq = s.hostq := rfl

@[simp] theorem State.broadcast_seen (s : State) (m : Instr) : (s.broadcast m).seen = s.seen := rfl

@[simp] theorem State.broadcast_sched (s : State) (m : Instr) : (s.broadcast m).sched = s.sched := rfl

@[simp] theorem State.broadcast_acting (s : State) (m : Instr) : (s.broadcast m).acting = s.acting := rfl

@[simp] theorem State.broadcast_draws (s : State) (m : Instr) : (s.broadcast m).draws = s.draws := rfl

@[simp] theorem State.broadcast_spoiled (s : State) (m : Instr) : (s.broadcast m).spoiled = s.spoiled := rfl

/-! ### `State.sendAck` -/

@[simp] theorem State.sendAck_st (s : State) (w : Nat) : (s.sendAck w).st = s.st := rfl

@[simp] theorem State.sendAck_busy (s : State) (w : Nat) : (s.sendAck w).busy = s.busy := rfl

@[simp] theorem State.sendAck_phase (s : State) (w : Nat) : (s.sendAck w).phase = s.phase := rfl

@[simp] theorem State.sendAck_sul (s : State) (w : Nat) : (s.sendAck w).sul = s.sul := rfl

@[simp] theorem State.sendAck_pack (s : State) (w : Nat) : (s.sendAck w).pack = s.pack := rfl

@[simp] theorem State.sendAck_nu (s : State) (w : Nat) : (s.sendAck w).nu = s.nu := rfl

@[simp] theorem State.sendAck_nt (s : State) (w : Nat) : (s.sendAck w).nt = s.nt := rfl

@[simp] theorem State.sendAck_rk (s : State) (w : Nat) : (s.sendAck w).rk = s.rk := rfl

@[simp] theorem State.sendAck_notified (s : State) (w : Nat) : (s.sendAck w).notified = s.notified := rfl

@[simp] theorem State.sendAck_buf (s : State) (w : Nat) : (s.sendAck w).buf = s.buf := rfl

@[simp] theorem State.sendAck_cb (s : State) (w : Nat) : (s.sendAck w).cb = s.cb := rfl

@[simp] theorem State.sendAck_cosTab (s : State) (w : Nat) : (s.sendAck w).cosTab = s.cosTab := rfl

@[simp] theorem State.sendAck_sinTab (s : State) (w : Nat) : (s.sendAck w).sinTab = s.sinTab := rfl

@[simp] theorem State.sendAck_mem (s : State) (w : Nat) : (s.sendAck w).mem = s.mem := rfl

@[simp] theorem State.sendAck_cmdq (s : State) (w : Nat) : (s.sendAck w).cmdq = s.cmdq := rfl

@[simp] theorem State.sendAck_evq (s : State) (w : Nat) : (s.sendAck w).evq = s.evq := rfl

@[simp] theorem State.sendAck_rsp (s : State) (w : Nat) : (s.sendAck w).rsp = s.rsp := rfl

@[simp] theorem State.sendAck_hostq (s : State) (w : Nat) : (s.sendAck w).hostq = s.hostq := rfl

@[simp] theorem State.sendAck_seen (s : State) (w : Nat) : (s.sendAck w).seen = s.seen := rfl

@[simp] theorem State.sendAck_sched (s : State) (w : Nat) : (s.sendAck w).sched = s.sched := rfl

@[simp] theorem State.sendAck_acting (s : State) (w : Nat) : (s.sendAck w).acting = s.acting := rfl

@[simp] theorem State.sendAck_draws (s : State) (w : Nat) : (s.sendAck w).draws = s.draws := rfl

@[simp] theorem State.sendAck_spoiled (s : State) (w : Nat) : (s.sendAck w).spoiled = s.spoiled := rfl

/-! ### `State.emitDone` -/

@[simp] theorem State.emitDone_st (s : State) (h : Handle) : (s.emitDone h).st = s.st := rfl

@[simp] theorem State.emitDone_busy (s : State) (h : Handle) : (s.emitDone h).busy = s.busy := rfl

@[simp] theorem State.emitDone_phase (s : State) (h : Handle) : (s.emitDone h).phase = s.phase := rfl

@[simp] theorem State.emitDone_sul (s : State) (h : Handle) : (s.emitDone h).sul = s.sul := rfl

@[simp] theorem State.emitDone_pack (s : State) (h : Handle) : (s.emitDone h).pack = s.pack := rfl

@[simp] theorem State.emitDone_nu (s : State) (h : Handle) : (s.emitDone h).nu = s.nu := rfl

@[simp] theorem State.emitDone_nt (s : State) (h : Handle) : (s.emitDone h).nt = s.nt := rfl

@[simp] theorem State.emitDone_rk (s : State) (h : Handle) : (s.emitDone h).rk = s.rk := rfl

@[simp] theorem State.emitDone_notified (s : State) (h : Handle) : (s.emitDone h).notified = s.notified := rfl

@[simp] theorem State.emitDone_buf (s : State) (h : Handle) : (s.emitDone h).buf = s.buf := rfl

@[simp] theorem State.emitDone_cb (s : State) (h : Handle) : (s.emitDone h).cb = s.cb := rfl

@[simp] theorem State.emitDone_workers (s : State) (h : Handle) : (s.emitDone h).workers = s.workers := rfl

@[simp] theorem State.emitDone_cosTab (s : State) (h : Handle) : (s.emitDone h).cosTab = s.cosTab := rfl

@[simp] theorem State.emitDone_sinTab (s : State) (h : Handle) : (s.emitDone h).sinTab = s.sinTab := rfl

@[simp] theorem State.emitDone_mem (s : State) (h : Handle) : (s.emitDone h).mem = s.mem := rfl

@[simp] theorem State.emitDone_cmdq (s : State) (h : Handle) : (s.emitDone h).cmdq = s.cmdq := rfl

@[simp] theorem State.emitDone_ackq (s : State) (h : Handle) : (s.emitDone h).ackq = s.ackq := rfl

@[simp] theorem State.emitDone_rsp (s : State) (h : Handle) : (s.emitDone h).rsp = s.rsp := rfl

@[simp] theorem State.emitDone_hostq (s : State) (h : Handle) : (s.emitDone h).hostq = s.hostq := rfl

@[simp] theorem State.emitDone_seen (s : State) (h : Handle) : (s.emitDone h).seen = s.seen := rfl

@[simp] theorem State.emitDone_sched (s : State) (h : Handle) : (s.emitDone h).sched = s.sched := rfl

@[simp] theorem State.emitDone_acting (s : State) (h : Handle) : (s.emitDone h).acting = s.acting := rfl

@[simp] theorem State.emitDone_draws (s : State) (h : Handle) : (s.emitDone h).draws = s.draws := rfl

@[simp] theorem State.emitDone_spoiled (s : State) (h : Handle) : (s.emitDone h).spoiled = s.spoiled := rfl

/-! ### `State.redraw` -/

@[simp] theorem State.redraw_st (s : State) (h : Handle) : (s.redraw h).st = s.st := rfl

@[simp] theorem State.redraw_busy (s : State) (h : Handle) : (s.redraw h).busy = s.busy := rfl

@[simp] theorem State.redraw_phase (s : State) (h : Handle) : (s.redraw h).phase = s.phase := rfl

@[simp] theorem State.redraw_sul (s : State) (h : Handle) : (s.redraw h).sul = s.sul := rfl

@[simp] theorem State.redraw_pack (s : State) (h : Handle) : (s.redraw h).pack = s.pack := rfl

@[simp] theorem State.redraw_nu (s : State) (h : Handle) : (s.redraw h).nu = s.nu := rfl

@[simp] theorem State.redraw_nt (s : State) (h : Handle) : (s.redraw h).nt = s.nt := rfl

@[simp] theorem State.redraw_rk (s : State) (h : Handle) : (s.redraw h).rk = s.rk := rfl

@[simp] theorem State.redraw_notified (s : State) (h : Handle) : (s.redraw h).notified = s.notified := rfl

@[simp] theorem State.redraw_buf (s : State) (h : Handle) : (s.redraw h).buf = s.buf := rfl

@[simp] theorem State.redraw_cb (s : State) (h : Handle) : (s.redraw h).cb = s.cb := rfl

@[simp] theorem State.redraw_workers (s : State) (h : Handle) : (s.redraw h).workers = s.workers := rfl

@[simp] theorem State.redraw_cosTab (s : State) (h : Handle) : (s.redraw h).cosTab = s.cosTab := rfl

@[simp] theorem State.redraw_sinTab (s : State) (h : Handle) : (s.redraw h).sinTab = s.sinTab := rfl

@[simp] theorem State.redraw_cmdq (s : State) (h : Handle) : (s.redraw h).cmdq = s.cmdq := rfl

@[simp] theorem State.redraw_ackq (s : State) (h : Handle) : (s.redraw h).ackq = s.ackq := rfl

@[simp] theorem State.redraw_evq (s : State) (h : Handle) : (s.redraw h).evq = s.evq := rfl

@[simp] theorem State.redraw_rsp (s : State) (h : Handle) : (s.redraw h).rsp = s.rsp := rfl

@[simp] theorem State.redraw_hostq (s : State) (h : Handle) : (s.redraw h).hostq = s.hostq := rfl

@[simp] theorem State.redraw_seen (s : State) (h : Handle) : (s.redraw h).seen = s.seen := rfl

@[simp] theorem State.redraw_sched (s : State) (h : Handle) : (s.redraw h).sched = s.sched := rfl

@[simp] theorem State.redraw_acting (s : State) (h : Handle) : (s.redraw h).acting = s.acting := rfl

@[simp] theorem State.redraw_spoiled (s : State) (h : Handle) : (s.redraw h).spoiled = s.spoiled := rfl

/-! ### The fields written -/

@[simp] theorem State.setWorker_workers (s : State) (i : Nat) (w : Worker) :
    (s.setWorker i w).workers = setAt Worker.powerOn s.workers i w := rfl

@[simp] theorem State.setCmd_cmdq (s : State) (i : Nat) (q : List Word) :
    (s.setCmd i q).cmdq = setAt [] s.cmdq i q := rfl

@[simp] theorem State.tell_seen (s : State) (n : HostNote) : (s.tell n).seen = s.seen ++ [n] := rfl

@[simp] theorem State.respond_seen (s : State) (c : Status) :
    (s.respond c).seen = s.seen ++ [.response (encode (.rsp s.busy c.code))] := rfl

@[simp] theorem State.broadcast_pack (s : State) (m : Instr) : (s.broadcast m).pack = s.nt := rfl

@[simp] theorem State.sendAck_ackq (s : State) (w : Nat) : (s.sendAck w).ackq = s.ackq ++ [encode (.ack w)] := rfl

@[simp] theorem State.sendAck_workers (s : State) (w : Nat) :
    (s.sendAck w).workers = setAt Worker.powerOn s.workers w { s.worker w with run := .halted, todo := [] } := rfl

@[simp] theorem State.emitDone_evq (s : State) (h : Handle) :
    (s.emitDone h).evq = s.evq ++ [encode (.done s.cb h)] := rfl

@[simp] theorem State.redraw_draws (s : State) (h : Handle) : (s.redraw h).draws = s.draws + 2 * s.size := rfl

@[simp] theorem State.setTodo_eq (s : State) (w : Nat) (l : List Work) :
    s.setTodo w l = s.setWorker w { s.worker w with todo := l } := rfl

@[simp] theorem State.beginWork_eq (s : State) (w : Nat) (d : Worker) (l : List Work) :
    s.beginWork w d l = s.setWorker w { d with run := .running, todo := l } := rfl

end Sys2Proof.Machine
end

