-- ==== Sys2Proof/Laws/Bank.lean ====
section
/-! SUPPORT. Banks read by index (descriptors and command channels): what a write changes and what it leaves alone. -/

namespace Sys2Proof.Machine

@[simp] theorem getD_setAt_self {α : Type} (d : α) (l : List α) (i : Nat) (a : α) : (setAt d l i a).getD i d = a := by
  induction i generalizing l with
  | zero => cases l <;> rfl
  | succ i ih =>
    cases l with
    | nil => simpa [setAt] using ih []
    | cons x l => simpa [setAt] using ih l

theorem getD_setAt_ne {α : Type} (d : α) (l : List α) {i j : Nat} (a : α) (h : i ≠ j) :
    (setAt d l i a).getD j d = l.getD j d := by
  induction i generalizing l j with
  | zero =>
    obtain ⟨j, rfl⟩ := Nat.exists_eq_succ_of_ne_zero (Ne.symm h)
    cases l <;> simp [setAt]
  | succ i ih =>
    cases j with
    | zero => cases l <;> simp [setAt]
    | succ j =>
      have hij : i ≠ j := fun e => h (by rw [e])
      cases l with
      | nil => simpa [setAt] using ih [] hij
      | cons x l => simpa [setAt] using ih l hij

theorem length_setAt {α : Type} (d : α) (l : List α) (i : Nat) (a : α) :
    (setAt d l i a).length = max l.length (i + 1) := by
  induction i generalizing l with
  | zero => cases l <;> simp [setAt]
  | succ i ih => cases l <;> simp [setAt, ih]

/-- A second write to the same place is the only one that counts. -/
@[simp] theorem setAt_setAt {α : Type} (d : α) (l : List α) (i : Nat) (a b : α) :
    setAt d (setAt d l i a) i b = setAt d l i b := by
  induction i generalizing l with
  | zero => cases l <;> rfl
  | succ i ih => cases l <;> simp [setAt, ih]

@[simp] theorem State.worker_setWorker_self (s : State) (i : Nat) (w : Worker) : (s.setWorker i w).worker i = w :=
  getD_setAt_self ..

theorem State.worker_setWorker_ne (s : State) {i j : Nat} (w : Worker) (h : i ≠ j) :
    (s.setWorker i w).worker j = s.worker j :=
  getD_setAt_ne _ _ _ h

@[simp] theorem State.setWorker_setWorker (s : State) (i : Nat) (w v : Worker) :
    (s.setWorker i w).setWorker i v = s.setWorker i v := by simp [State.setWorker]

@[simp] theorem State.cmdAt_setCmd_self (s : State) (i : Nat) (q : List Word) : (s.setCmd i q).cmdAt i = q :=
  getD_setAt_self ..

theorem State.cmdAt_setCmd_ne (s : State) {i j : Nat} (q : List Word) (h : i ≠ j) :
    (s.setCmd i q).cmdAt j = s.cmdAt j :=
  getD_setAt_ne _ _ _ h

@[simp] theorem State.worker_setCmd (s : State) (i j : Nat) (q : List Word) : (s.setCmd i q).worker j = s.worker j := rfl

@[simp] theorem State.cmdAt_setWorker (s : State) (i j : Nat) (w : Worker) : (s.setWorker i w).cmdAt j = s.cmdAt j := rfl

/-- A broadcast reaches every worker of the engine (42_coordinator.md R176). -/
theorem State.cmdAt_broadcast_lt (s : State) (m : Instr) {i : Nat} (h : i < s.nt) :
    (s.broadcast m).cmdAt i = s.cmdAt i ++ [encode m] := by
  simp [State.broadcast, State.cmdAt, List.getD, List.getElem?_append, h]

/-- A broadcast reaches no other worker. -/
theorem State.cmdAt_broadcast_ge (s : State) (m : Instr) {i : Nat} (h : s.nt ≤ i) :
    (s.broadcast m).cmdAt i = s.cmdAt i := by
  simp [State.broadcast, State.cmdAt, List.getD, List.getElem?_append, Nat.not_lt.mpr h, List.getElem?_drop, h]

@[simp] theorem State.worker_sendAck_self (s : State) (w : Nat) :
    (s.sendAck w).worker w = { s.worker w with run := .halted, todo := [] } := State.worker_setWorker_self ..

theorem State.worker_sendAck_ne (s : State) {w v : Nat} (h : w ≠ v) : (s.sendAck w).worker v = s.worker v :=
  State.worker_setWorker_ne _ _ h

end Sys2Proof.Machine
end

