-- ==== Sys2Proof/Laws/Memory.lean ====
section
/-! SUPPORT. Sample memory: a read after a write, what a write leaves alone, and the canonical form (20_memory.md R60,
R72 (b)). -/

namespace Sys2Proof.Machine

@[simp] theorem Buffer.seq_withSeq_self (b : Buffer) (p : Part) (l : List Sample) : (b.withSeq p l).seq p = l := by
  cases p <;> rfl

theorem Buffer.seq_withSeq_ne (b : Buffer) {p q : Part} (l : List Sample) (h : p ≠ q) : (b.withSeq p l).seq q = b.seq q := by
  cases p <;> cases q <;> first | rfl | exact absurd rfl h

/-- A buffer with an element is bound to something. -/
theorem Buffer.isUnbound_of_seq {b : Buffer} {p : Part} {i : Nat} {v : Sample} (h : (b.seq p)[i]? = some v) :
    b.isUnbound = false := by
  cases p <;> simp only [Buffer.seq] at h <;> simp only [Buffer.isUnbound]
  · cases hb : b.real with
    | nil => rw [hb] at h; simp at h
    | cons x l => simp
  · cases hb : b.imag with
    | nil => rw [hb] at h; simp at h
    | cons x l => simp

theorem Memory.lookup_put_self (m : Memory) (h : Nat) {b : Buffer} (hb : b.isUnbound = false) :
    (Memory.put m h b).lookup h = b := by
  induction m with
  | nil => simp [Memory.put, hb, Memory.lookup]
  | cons e m ih =>
    obtain ⟨k, c⟩ := e
    simp only [Memory.put, hb]
    split
    · simp [Memory.lookup]
    · split
      · simp [Memory.lookup]
      · rename_i h1 h2
        simpa [Memory.lookup, Ne.symm h2] using ih

theorem Memory.lookup_put_ne (m : Memory) {h g : Nat} (b : Buffer) (hg : h ≠ g) :
    (Memory.put m h b).lookup g = m.lookup g := by
  induction m with
  | nil => by_cases hb : b.isUnbound = true <;> simp [Memory.put, hb, Memory.lookup, hg]
  | cons e m ih =>
    obtain ⟨k, c⟩ := e
    by_cases hb : b.isUnbound = true <;> simp only [Memory.put, hb] <;> split <;>
      first
        | (simp [Memory.lookup, hg]; done)
        | (split
           · rename_i h2; subst h2; simp [Memory.lookup, hg]
           · simp only [Memory.lookup]; split <;> first | rfl | exact ih)

theorem Memory.wfFrom_mono {m : Memory} {a b : Nat} (hab : a ≤ b) (h : m.wfFrom b = true) : m.wfFrom a = true := by
  cases m with
  | nil => rfl
  | cons e m =>
    obtain ⟨k, c⟩ := e
    simp only [Memory.wfFrom, Bool.and_eq_true, decide_eq_true_eq] at h ⊢
    exact ⟨⟨⟨by omega, h.1.1.2⟩, h.1.2⟩, h.2⟩

theorem Memory.wfFrom_put {m : Memory} {lo h : Nat} {b : Buffer} (hm : m.wfFrom lo = true) (hlo : lo ≤ h)
    (hh : h < 65536) : (Memory.put m h b).wfFrom lo = true := by
  induction m generalizing lo with
  | nil => by_cases hb : b.isUnbound = true <;> simp [Memory.put, hb, Memory.wfFrom, hlo, hh]
  | cons e m ih =>
    obtain ⟨k, c⟩ := e
    have hm0 := hm
    simp only [Memory.wfFrom, Bool.and_eq_true, decide_eq_true_eq, Bool.not_eq_true'] at hm
    obtain ⟨⟨⟨h1, h2⟩, h3⟩, h4⟩ := hm
    simp only [Memory.put]
    split
    · rename_i hk
      split
      · exact hm0
      · rename_i hb
        simp only [Memory.wfFrom, Bool.and_eq_true, decide_eq_true_eq, Bool.not_eq_true']
        exact ⟨⟨⟨hlo, hh⟩, by simpa using hb⟩, ⟨⟨by omega, h2⟩, h3⟩, h4⟩
    · split
      · rename_i hk
        split
        · exact Memory.wfFrom_mono (by omega) h4
        · rename_i hb
          simp only [Memory.wfFrom, Bool.and_eq_true, decide_eq_true_eq, Bool.not_eq_true']
          exact ⟨⟨⟨hlo, hh⟩, by simpa using hb⟩, by rw [hk]; exact h4⟩
      · simp only [Memory.wfFrom, Bool.and_eq_true, decide_eq_true_eq, Bool.not_eq_true']
        exact ⟨⟨⟨h1, h2⟩, h3⟩, ih h4 (by omega)⟩

/-- Binding a buffer keeps the canonical form. -/
theorem Memory.wf_put {m : Memory} {h : Handle} {b : Buffer} (hm : m.wf = true) :
    (Memory.put m h.toNat b).wf = true := Memory.wfFrom_put hm (Nat.zero_le _) h.isLt

/-- Writing an element keeps the canonical form. -/
theorem Memory.wf_writeEl {m : Memory} (a : Addr) (v : Sample) (hm : m.wf = true) : (m.writeEl a v).wf = true :=
  Memory.wf_put hm

/-- Writing one element of an existing buffer: every element reads as before, but the one written. -/
theorem Memory.readEl_writeEl {m : Memory} {a b : Addr} {v u : Sample} (ha : m.readEl a = some u) :
    (m.writeEl a v).readEl b = if b = a then some v else m.readEl b := by
  obtain ⟨ah, ap, ai⟩ := a
  obtain ⟨bh, bp, bi⟩ := b
  simp only [Memory.readEl] at ha
  have hlen : ai < ((m.lookup ah.toNat).seq ap).length := (List.getElem?_eq_some_iff.mp ha).1
  have hbound : ((m.lookup ah.toNat).withSeq ap (((m.lookup ah.toNat).seq ap).set ai v)).isUnbound = false :=
    Buffer.isUnbound_of_seq (p := ap) (i := ai) (v := v) (by simp [hlen])
  simp only [Memory.readEl, Memory.writeEl, Addr.mk.injEq]
  by_cases hh : bh = ah
  · subst hh
    rw [Memory.lookup_put_self _ _ hbound]
    by_cases hp : bp = ap
    · subst hp
      by_cases hi : bi = ai
      · subst hi; simp [hlen]
      · simp [hi, Ne.symm hi]
    · rw [Buffer.seq_withSeq_ne _ _ (Ne.symm hp)]
      simp [hp]
  · rw [Memory.lookup_put_ne _ _ (fun e => hh (BitVec.eq_of_toNat_eq e.symm))]
    simp [hh]

/-- A write leaves every other place alone (20_memory.md R72). -/
theorem Memory.readEl_writeEl_ne {m : Memory} {a b : Addr} {v u : Sample} (ha : m.readEl a = some u) (h : b ≠ a) :
    (m.writeEl a v).readEl b = m.readEl b := by rw [Memory.readEl_writeEl ha, if_neg h]

/-- A read after a write to the same place gives the value written (20_memory.md R69). -/
theorem Memory.readEl_writeEl_self {m : Memory} {a : Addr} {v u : Sample} (ha : m.readEl a = some u) :
    (m.writeEl a v).readEl a = some v := by rw [Memory.readEl_writeEl ha, if_pos rfl]

theorem Memory.lookup_writeEl_seq_length {m : Memory} {a : Addr} {v u : Sample} (ha : m.readEl a = some u) (h : Handle)
    (p : Part) : (((m.writeEl a v).lookup h.toNat).seq p).length = ((m.lookup h.toNat).seq p).length := by
  obtain ⟨ah, ap, ai⟩ := a
  simp only [Memory.readEl] at ha
  have hlen : ai < ((m.lookup ah.toNat).seq ap).length := (List.getElem?_eq_some_iff.mp ha).1
  have hbound : ((m.lookup ah.toNat).withSeq ap (((m.lookup ah.toNat).seq ap).set ai v)).isUnbound = false :=
    Buffer.isUnbound_of_seq (p := ap) (i := ai) (v := v) (by simp [hlen])
  simp only [Memory.writeEl]
  by_cases hh : h = ah
  · subst hh
    rw [Memory.lookup_put_self _ _ hbound]
    by_cases hp : p = ap
    · subst hp; simp
    · rw [Buffer.seq_withSeq_ne _ _ (Ne.symm hp)]
  · rw [Memory.lookup_put_ne _ _ (fun e => hh (BitVec.eq_of_toNat_eq e.symm))]

/-- Writing an element changes no length (20_memory.md R60). -/
theorem Memory.longEnough_writeEl {m : Memory} {a : Addr} {v u : Sample} (ha : m.readEl a = some u) (h : Handle) (n : Nat) :
    (m.writeEl a v).longEnough h n = m.longEnough h n := by
  have hr := Memory.lookup_writeEl_seq_length (v := v) ha h .real
  have hi := Memory.lookup_writeEl_seq_length (v := v) ha h .imag
  simp only [Buffer.seq] at hr hi
  simp [Memory.longEnough, hr, hi]

/-- In a buffer of at least `n` elements every element below `n` exists (20_memory.md R61). -/
theorem Memory.readEl_of_longEnough {m : Memory} {h : Handle} {n i : Nat} (hn : m.longEnough h n = true) (hi : i < n)
    (p : Part) : ∃ v, m.readEl ⟨h, p, i⟩ = some v := by
  simp only [Memory.longEnough, Bool.and_eq_true, decide_eq_true_eq] at hn
  refine Option.isSome_iff_exists.mp ?_
  cases p <;> simp [Memory.readEl, Buffer.seq] <;> omega

end Sys2Proof.Machine
end

