-- ==== Sys2Proof/Laws/Outcome.lean ====
section
/-! SUPPORT. What a sequence of operations answers, and what one butterfly, one atom and one command can do. -/

namespace Sys2Proof.Machine

@[simp] theorem andThen_next (s : State) (f : State → Host.Outcome State Fault Refusal) : andThen (.next s) f = f s := rfl

@[simp] theorem andThen_fault (r : Fault) (f : State → Host.Outcome State Fault Refusal) :
    andThen (.fault r) f = .fault r := rfl

@[simp] theorem andThen_refused (r : Refusal) (f : State → Host.Outcome State Fault Refusal) :
    andThen (.refused r) f = .refused r := rfl

/-- A sequence goes on exactly when its first part does and its second does from there. -/
theorem andThen_eq_next {o : Host.Outcome State Fault Refusal} {f : State → Host.Outcome State Fault Refusal} {t : State} :
    andThen o f = .next t ↔ ∃ s, o = .next s ∧ f s = .next t := by
  cases o <;> simp [andThen]

theorem andThen_assoc (o : Host.Outcome State Fault Refusal) (f g : State → Host.Outcome State Fault Refusal) :
    andThen (andThen o f) g = andThen o (fun s => andThen (f s) g) := by cases o <;> rfl

/-- The results of the butterfly of worker `w` at first leg `k`, given the four operands. -/
def State.legsOf (s : State) (w k : Nat) (ar ai br bi : Sample) : Legs :=
  bflyLegs (fun j => nanDraw (s.draws + j)) (s.cosAt (twIndex s.nu k (s.worker w).nu1))
    (s.sinAt (twIndex s.nu k (s.worker w).nu1)) ar ai br bi

/-- A butterfly whose four elements exist goes on, and this is all it does (41_worker.md R140). -/
theorem bfly_eq {s : State} {w k : Nat} {ar ai br bi : Sample}
    (h1 : s.mem.readEl ⟨(s.worker w).buf, .real, k⟩ = some ar) (h2 : s.mem.readEl ⟨(s.worker w).buf, .imag, k⟩ = some ai)
    (h3 : s.mem.readEl ⟨(s.worker w).buf, .real, k + (s.worker w).n2⟩ = some br)
    (h4 : s.mem.readEl ⟨(s.worker w).buf, .imag, k + (s.worker w).n2⟩ = some bi) :
    bfly w k s = .next { s with
      mem := writeLegs s.mem (s.worker w).buf k (k + (s.worker w).n2) (s.legsOf w k ar ai br bi),
      draws := s.draws + 10 } := by
  simp [bfly, h1, h2, h3, h4, State.legsOf]

/-- Everything a butterfly can do. -/
theorem bfly_cases (w k : Nat) (s : State) :
    bfly w k s = .fault .noSuchElement ∨
      ∃ ar ai br bi, s.mem.readEl ⟨(s.worker w).buf, .real, k⟩ = some ar ∧
        s.mem.readEl ⟨(s.worker w).buf, .imag, k⟩ = some ai ∧
        s.mem.readEl ⟨(s.worker w).buf, .real, k + (s.worker w).n2⟩ = some br ∧
        s.mem.readEl ⟨(s.worker w).buf, .imag, k + (s.worker w).n2⟩ = some bi ∧
        bfly w k s = .next { s with
          mem := writeLegs s.mem (s.worker w).buf k (k + (s.worker w).n2) (s.legsOf w k ar ai br bi),
          draws := s.draws + 10 } := by
  cases h1 : s.mem.readEl ⟨(s.worker w).buf, .real, k⟩ <;> cases h2 : s.mem.readEl ⟨(s.worker w).buf, .imag, k⟩ <;>
    cases h3 : s.mem.readEl ⟨(s.worker w).buf, .real, k + (s.worker w).n2⟩ <;>
    cases h4 : s.mem.readEl ⟨(s.worker w).buf, .imag, k + (s.worker w).n2⟩ <;>
    first
      | (left; simp [bfly, h1, h2, h3, h4]; done)
      | exact .inr ⟨_, _, _, _, rfl, rfl, rfl, rfl, bfly_eq h1 h2 h3 h4⟩

/-- What the four writes of a butterfly leave behind, its legs being two different elements of each sequence. -/
theorem readEl_writeLegs {m : Memory} {h : Handle} {k1 k2 : Nat} {r : Legs} {ar ai br bi : Sample} (hk : k1 ≠ k2)
    (h1 : m.readEl ⟨h, .real, k1⟩ = some ar) (h2 : m.readEl ⟨h, .imag, k1⟩ = some ai)
    (h3 : m.readEl ⟨h, .real, k2⟩ = some br) (h4 : m.readEl ⟨h, .imag, k2⟩ = some bi) (b : Addr) :
    (writeLegs m h k1 k2 r).readEl b =
      if b = ⟨h, .real, k1⟩ then some r.real1 else if b = ⟨h, .imag, k1⟩ then some r.imag1
      else if b = ⟨h, .real, k2⟩ then some r.real2 else if b = ⟨h, .imag, k2⟩ then some r.imag2
      else m.readEl b := by
  have n1 : (⟨h, .imag, k2⟩ : Addr) ≠ ⟨h, .real, k2⟩ := by simp
  have n2 : (⟨h, .real, k1⟩ : Addr) ≠ ⟨h, .imag, k2⟩ := by simp
  have n3 : (⟨h, .real, k1⟩ : Addr) ≠ ⟨h, .real, k2⟩ := by simp [hk]
  have n4 : (⟨h, .imag, k1⟩ : Addr) ≠ ⟨h, .real, k1⟩ := by simp
  have n5 : (⟨h, .imag, k1⟩ : Addr) ≠ ⟨h, .imag, k2⟩ := by simp [hk]
  have n6 : (⟨h, .imag, k1⟩ : Addr) ≠ ⟨h, .real, k2⟩ := by simp
  have e2 := (Memory.readEl_writeEl_ne (v := r.real2) h3 n1).trans h4
  have e3 := ((Memory.readEl_writeEl_ne (v := r.imag2) e2 n2).trans (Memory.readEl_writeEl_ne (v := r.real2) h3 n3)).trans h1
  have e4 := ((Memory.readEl_writeEl_ne (v := r.real1) e3 n4).trans
    ((Memory.readEl_writeEl_ne (v := r.imag2) e2 n5).trans (Memory.readEl_writeEl_ne (v := r.real2) h3 n6))).trans h2
  unfold writeLegs
  rw [Memory.readEl_writeEl e4, Memory.readEl_writeEl e3, Memory.readEl_writeEl e2, Memory.readEl_writeEl h3]
  by_cases c1 : b = ⟨h, .real, k1⟩
  · subst c1; simp
  · by_cases c2 : b = ⟨h, .imag, k1⟩
    · simp [c2]
    · by_cases c3 : b = ⟨h, .imag, k2⟩
      · subst c3; simp
      · simp [c1, c2, c3]

theorem Memory.wf_writeLegs {m : Memory} (h : Handle) (k1 k2 : Nat) (r : Legs) (hm : m.wf = true) :
    (writeLegs m h k1 k2 r).wf = true :=
  wf_writeEl _ _ (wf_writeEl _ _ (wf_writeEl _ _ (wf_writeEl _ _ hm)))

/-- The work of a list is its first atom, taken up, and then the rest. -/
theorem runWork_cons (w : Nat) (it : Work) (l : List Work) (s : State) :
    runWork w (it :: l) s = andThen (doWork w it (s.setTodo w l)) (runWork w l) := rfl

/-- The registers, channels and host side that no atom of a command touches. -/
structure State.SameButWork (s t : State) (w : Nat) : Prop where
  coordinator : (t.st, t.busy, t.phase, t.sul, t.pack, t.nu, t.nt, t.rk, t.notified, t.buf, t.cb) =
    (s.st, s.busy, s.phase, s.sul, s.pack, s.nu, s.nt, s.rk, s.notified, s.buf, s.cb)
  lut : (t.cosTab, t.sinTab) = (s.cosTab, s.sinTab)
  channels : (t.cmdq, t.ackq, t.evq, t.rsp) = (s.cmdq, s.ackq, s.evq, s.rsp)
  host : (t.hostq, t.seen, t.sched, t.acting, t.spoiled) = (s.hostq, s.seen, s.sched, s.acting, s.spoiled)
  others : ∀ v, v ≠ w → t.worker v = s.worker v

theorem State.SameButWork.refl (s : State) (w : Nat) : s.SameButWork s w :=
  ⟨rfl, rfl, rfl, rfl, fun _ _ => rfl⟩

theorem State.SameButWork.trans {s t u : State} {w : Nat} (h : s.SameButWork t w) (g : t.SameButWork u w) :
    s.SameButWork u w :=
  ⟨g.coordinator.trans h.coordinator, g.lut.trans h.lut, g.channels.trans h.channels, g.host.trans h.host,
    fun v hv => (g.others v hv).trans (h.others v hv)⟩

theorem State.sameButWork_setWorker (s : State) (w : Nat) (d : Worker) : s.SameButWork (s.setWorker w d) w :=
  ⟨rfl, rfl, rfl, rfl, fun _ hv => State.worker_setWorker_ne _ _ (Ne.symm hv)⟩

/-- The frame of one atom of a command. -/
theorem doWork_frame {w : Nat} {it : Work} {s t : State} (h : doWork w it s = .next t) : s.SameButWork t w := by
  cases it with
  | bfly k =>
    rcases bfly_cases w k s with hf | ⟨ar, ai, br, bi, -, -, -, -, hn⟩
    · simp [doWork, hf] at h
    · simp only [doWork, hn, Host.Outcome.next.injEq] at h
      subst h
      exact ⟨rfl, rfl, rfl, rfl, fun _ _ => rfl⟩
  | endStage =>
    simp only [doWork, Host.Outcome.next.injEq] at h
    subst h
    exact State.sameButWork_setWorker ..

/-- The frame of the work of a command. -/
theorem runWork_frame {w : Nat} {l : List Work} {s t : State} (h : runWork w l s = .next t) : s.SameButWork t w := by
  induction l generalizing s with
  | nil => simp only [runWork, Host.Outcome.next.injEq] at h; subst h; exact .refl ..
  | cons it l ih =>
    obtain ⟨u, hu, hr⟩ := andThen_eq_next.mp h
    exact ((State.sameButWork_setWorker ..).trans (doWork_frame hu)).trans (ih hr)

end Sys2Proof.Machine
end

