-- ==== Sys2Proof/Laws/Cases.lean ====
section
/-! SUPPORT. Inversion: if a meaning answers a next state, which of its branches gave it, and under which test. -/

namespace Sys2Proof.Machine

theorem execConfig_next {nu : Nat} {hint : Int} {s t : State} (h : execConfig nu hint s = .next t) :
    (s.st ≠ .unconf ∧ t = s.respond .eState) ∨
      (s.st = .unconf ∧ (nu < 1 ∨ 2 ^ nu / 2 < ceilpow2 hint) ∧ t = s.respond .eConfig) ∨
      (s.st = .unconf ∧ 1 ≤ nu ∧ ceilpow2 hint ≤ 2 ^ nu / 2 ∧ ¬ (nu ≤ Config.nuMax ∧ ceilpow2 hint ≤ Config.ntMax) ∧
        t = s.respond .eAlloc) ∨
      (s.st = .unconf ∧ 1 ≤ nu ∧ ceilpow2 hint ≤ 2 ^ nu / 2 ∧ nu ≤ Config.nuMax ∧ ceilpow2 hint ≤ Config.ntMax ∧
        t = (s.construct nu (ceilpow2 hint)).respond .ok) := by
  unfold execConfig at h
  split at h
  · rename_i h0
    cases h
    exact .inl ⟨h0, rfl⟩
  · rename_i h0
    have hu : s.st = .unconf := by simpa using h0
    split at h
    · rename_i h1
      cases h
      exact .inr (.inl ⟨hu, .inl h1, rfl⟩)
    · rename_i h1
      split at h
      · rename_i h2
        cases h
        exact .inr (.inl ⟨hu, .inr h2, rfl⟩)
      · rename_i h2
        split at h
        · rename_i h3
          cases h
          exact .inr (.inr (.inr ⟨hu, by omega, by omega, h3.1, h3.2, rfl⟩))
        · rename_i h3
          cases h
          exact .inr (.inr (.inl ⟨hu, by omega, by omega, h3, rfl⟩))

theorem execSubmit_next {buf : Handle} {cb : Callback} {s t : State} (h : execSubmit buf cb s = .next t) :
    (∃ c, c ≠ .ok ∧ t = s.respond c) ∨
      (s.st ≠ .unconf ∧ s.busy = false ∧ s.mem.longEnough buf s.size = true ∧ t = (s.accept buf cb).respond .ok) := by
  unfold execSubmit at h
  split at h
  · cases h
    exact .inl ⟨.eState, by decide, rfl⟩
  · split at h
    · cases h
      exact .inl ⟨.busy, by decide, rfl⟩
    · split at h
      · cases h
        exact .inl ⟨.ePrecond, by decide, rfl⟩
      · cases h
        simp_all

theorem execIsbusy_next {s t : State} (h : execIsbusy s = .next t) : ∃ c, t = s.respond c := by
  unfold execIsbusy at h
  split at h <;> cases h <;> exact ⟨_, rfl⟩

theorem execShutdown_next {s t : State} (h : execShutdown s = .next t) :
    (s.st = .unconf ∧ t = s.respond .eState) ∨
      (s.st ≠ .unconf ∧ s.busy = false ∧ t = s.release.respond .ok) := by
  unfold execShutdown at h
  split at h
  · rename_i h0
    cases h
    exact .inl ⟨h0, rfl⟩
  · split at h
    · cases h
    · cases h
      simp_all

theorem releaseDist_next {s t : State} (h : releaseDist s = .next t) :
    (∃ b, s.buf = some b ∧ s.phase < s.nt ∧ t = { s.broadcast (.strided false b) with phase := s.phase * 2 }) ∨
      (s.nt ≤ s.phase ∧ t = { s.broadcast .localRemainder with st := .localPhase }) := by
  unfold releaseDist at h
  split at h
  · rename_i h0
    split at h
    · rename_i b hb
      cases h
      exact .inl ⟨b, hb, h0, rfl⟩
    · cases h
  · cases h
    exact .inr ⟨by omega, rfl⟩

/-- A report taken is counted, or releases the barrier of its phase. -/
theorem execAck_next {id : Nat} {s t : State} (h : execAck id s = .next t) :
    (s.st = .dist ∨ s.st = .localPhase) ∧
      ((2 ≤ s.pack ∧ t = { s with pack := s.pack - 1 }) ∨
        (s.pack = 1 ∧ s.st = .dist ∧ releaseDist { s with pack := 0 } = .next t) ∨
        (s.pack = 1 ∧ s.st = .localPhase ∧ t = releaseLocal { s with pack := 0 })) := by
  unfold execAck at h
  split at h
  · cases h
  · rename_i h0
    simp only [State.awaitsReport, Bool.not_eq_false, Bool.and_eq_true, Bool.or_eq_true, beq_iff_eq,
      decide_eq_true_eq] at h0
    split at h
    · rename_i h1
      have hp : s.pack = 1 := by omega
      refine ⟨h0.1, .inr ?_⟩
      rcases h0.1 with hs | hs <;> simp only [release, hs] at h
      · rw [← hs] at h
        exact .inl ⟨hp, hs, h⟩
      · cases h
        exact .inr ⟨hp, hs, rfl⟩
    · cases h
      exact ⟨h0.1, .inl ⟨by omega, rfl⟩⟩

/-- A reorder step moves `RK` on, and exchanges two elements or none. -/
theorem reorderStep_next {s t : State} (h : reorderStep s = .next t) :
    (bitrev s.rk s.nu ≤ s.rk ∧ t = { s with rk := s.rk + 1 }) ∨
      (s.rk < bitrev s.rk s.nu ∧ ∃ b xr yr xi yi, s.buf = some b ∧ s.mem.readEl ⟨b, .real, s.rk⟩ = some xr ∧
        s.mem.readEl ⟨b, .real, bitrev s.rk s.nu⟩ = some yr ∧ s.mem.readEl ⟨b, .imag, s.rk⟩ = some xi ∧
        s.mem.readEl ⟨b, .imag, bitrev s.rk s.nu⟩ = some yi ∧
        t = { s with mem := swapEls s.mem b s.rk (bitrev s.rk s.nu) xr yr xi yi, rk := s.rk + 1 }) := by
  unfold reorderStep at h
  split at h
  · rename_i h0
    split at h
    · cases h
    · rename_i b hb
      split at h
      · rename_i xr yr xi yi h1 h2 h3 h4
        cases h
        exact .inr ⟨h0, b, xr, yr, xi, yi, hb, h1, h2, h3, h4, rfl⟩
      · cases h
  · cases h
    exact .inl ⟨by omega, rfl⟩

theorem notify_next {s t : State} (h : notify s = .next t) :
    ∃ b, s.buf = some b ∧
      t = { (if s.spoiled then s.redraw b else s).emitDone b with buf := none, notified := true } := by
  unfold notify at h
  split at h
  · cases h
  · rename_i b hb
    cases h
    exact ⟨b, hb, rfl⟩

theorem receiveStrided_next {w : Nat} {init : Bool} {buf : Handle} {s t : State}
    (h : receiveStrided w init buf s = .next t) :
    workerCountOk s.nu s.nt = true ∧
      t = s.beginWork w (stridedDescriptor init buf s.nu (s.worker w))
        (stageWork (stridedLegs s.size s.nt (stridedDescriptor init buf s.nu (s.worker w)).n2 w)) := by
  unfold receiveStrided at h
  split at h
  · cases h
  · cases h
    simp_all

theorem receiveLocal_next {w : Nat} {s t : State} (h : receiveLocal w s = .next t) :
    workerCountOk s.nu s.nt = true ∧ t = s.beginWork w (s.worker w) (localWork w (s.worker w).n2) := by
  unfold receiveLocal at h
  split at h
  · cases h
  · cases h
    simp_all

theorem hostBind_next {b : Handle} {c : Buffer} {s t : State} (h : hostBind b c s = .next t) :
    s.buf ≠ some b ∧ t = { s with mem := s.mem.put b.toNat c } := by
  unfold hostBind at h
  split at h
  · cases h
  · rename_i h0
    cases h
    exact ⟨h0, rfl⟩

theorem hostWrite_next {a : Addr} {v : Sample} {s t : State} (h : hostWrite a v s = .next t) :
    (∃ u, s.mem.readEl a = some u) ∧
      ((s.lent a = true ∧ t = { s.redraw a.handle with spoiled := true }) ∨
        (s.lent a = false ∧ t = { s with mem := s.mem.writeEl a v })) := by
  unfold hostWrite at h
  split at h
  · cases h
  · rename_i h0
    refine ⟨Option.ne_none_iff_exists'.mp h0, ?_⟩
    split at h
    · rename_i h1
      cases h
      exact .inl ⟨h1, rfl⟩
    · rename_i h1
      cases h
      exact .inr ⟨by simpa using h1, rfl⟩

/-- A host read tells the host something and changes nothing of the engine or its buffers. -/
theorem hostRead_next {a : Addr} {s t : State} (h : hostRead a s = .next t) :
    ∃ v, t = { s with seen := s.seen ++ [.datum v], draws := t.draws } := by
  unfold hostRead at h
  split at h
  · cases h
  · split at h
    · cases h
      exact ⟨_, rfl⟩
    · cases h
      exact ⟨_, rfl⟩

end Sys2Proof.Machine
end

