-- ==== Sys2Proof/Laws/Operands.lean ====
section
/-! SUPPORT. Which first legs a worker visits, as arithmetic on them; the work of a stage; the worker count as a power of
two. -/

namespace Sys2Proof.Machine

@[simp] theorem bitrev_zero (i : Nat) : bitrev i 0 = 0 := rfl

@[simp] theorem bitrev_succ (i nu : Nat) : bitrev i (nu + 1) = i % 2 * 2 ^ nu + bitrev (i / 2) nu := rfl

theorem lt_ceilDiv {a b m : Nat} (hb : 0 < b) : m < ceilDiv a b ↔ m * b < a := by
  unfold ceilDiv
  rw [Nat.lt_div_iff_mul_lt hb]
  omega

@[simp] theorem shiftRight_ofNat (k n : Nat) : shiftRight k (n : Int) = k / 2 ^ n := by simp [shiftRight]

theorem shiftRight_of_nonneg (k : Nat) {nu1 : Int} (h : 0 ≤ nu1) : shiftRight k nu1 = k / 2 ^ nu1.toNat := if_pos h

theorem shiftRight_of_neg (k : Nat) {nu1 : Int} (h : nu1 < 0) : shiftRight k nu1 = Config.shiftByNegative k nu1 :=
  if_neg (by omega)

theorem mem_strideOffsets {w nt n2 j : Nat} (hn : 0 < nt) :
    j ∈ strideOffsets w nt n2 ↔ ∃ m, j = w + m * nt ∧ j < n2 := by
  simp only [strideOffsets, List.mem_map, List.mem_range, lt_ceilDiv hn]
  constructor
  · rintro ⟨m, hm, rfl⟩
    exact ⟨m, rfl, by omega⟩
  · rintro ⟨m, rfl, hm⟩
    exact ⟨m, by omega, rfl⟩

theorem mem_stridedLegs {size nt n2 w k : Nat} (hn : 0 < nt) :
    k ∈ stridedLegs size nt n2 w ↔
      ∃ g m, g < size / (2 * n2) ∧ w + m * nt < n2 ∧ k = g * (2 * n2) + (w + m * nt) := by
  simp only [stridedLegs, List.mem_flatMap, List.mem_range, List.mem_map, mem_strideOffsets hn]
  constructor
  · rintro ⟨g, hg, _, ⟨m, rfl, hm⟩, rfl⟩
    exact ⟨g, m, hg, hm, rfl⟩
  · rintro ⟨g, m, hg, hm, rfl⟩
    exact ⟨g, hg, _, ⟨m, rfl, hm⟩, rfl⟩

/-- With span 0 no first leg is visited, whatever the number of groups (log 35). -/
theorem strided_zero_span (groups nt w : Nat) (hn : 0 < nt) :
    (List.range groups).flatMap (fun g => (strideOffsets w nt 0).map (fun j => g * (2 * 0) + j)) = [] := by
  simp [List.eq_nil_iff_forall_not_mem, mem_strideOffsets hn]

@[simp] theorem stridedLegs_zero_span (size nt w : Nat) : stridedLegs size nt 0 w = [] := by simp [stridedLegs]

theorem mem_blockLegs {base size n2 k : Nat} (hn : 0 < n2) :
    k ∈ blockLegs base size n2 ↔ ∃ g t, g * (2 * n2) < size ∧ t < n2 ∧ k = base + g * (2 * n2) + t := by
  simp only [blockLegs, List.mem_flatMap, List.mem_range, List.mem_map, lt_ceilDiv (show 0 < 2 * n2 by omega)]
  constructor
  · rintro ⟨g, hg, t, ht, rfl⟩
    exact ⟨g, t, hg, ht, rfl⟩
  · rintro ⟨g, t, hg, ht, rfl⟩
    exact ⟨g, hg, t, ht, rfl⟩

@[simp] theorem length_stageWork (legs : List Nat) : (stageWork legs).length = legs.length + 1 := by
  simp [stageWork]

/-- A legal worker count, spelt out. -/
theorem workerCountOk_iff {nu nt : Nat} :
    workerCountOk nu nt = true ↔ 2 ≤ nt ∧ nt = 2 ^ Nat.log2 nt ∧ nt ≤ 2 ^ nu / 2 := by
  simp [workerCountOk, and_assoc]

/-- One stage of LOCAL, then the rest at half the span. -/
theorem localStages_succ {base size fuel n2 : Nat} (hn : n2 ≠ 0) :
    localStages base size (fuel + 1) n2 =
      stageWork (blockLegs base size n2) ++ localStages base size fuel (n2 / 2) := by
  simp [localStages, hn]

@[simp] theorem localStages_zero_span (base size fuel : Nat) : localStages base size fuel 0 = [] := by
  cases fuel <;> simp [localStages]

end Sys2Proof.Machine
end

