-- ==== Sys2Proof/Laws/PerInstr.lean ====
section
/-! SUPPORT. For every message: the word it is encoded as carries its opcode, and every reserved bit is 0
(30_encoding.md R91, R101). -/

namespace Sys2Proof.Laws.ReservedZero

/-- The opcode field holds the opcode of R101 and the reserved field of R91 is 0. -/
def Statement (i : Instr) : Prop :=
  i.wf = true → field (encode i) 31 28 = i.opcode ∧ field (encode i) i.reserved.1 i.reserved.2 = 0

theorem config (nu : Nat) (hint : Int) : Statement (.config nu hint) := by
  intro h
  simp only [Instr.wf, Bool.and_eq_true, decide_eq_true_eq] at h
  simp only [field, encode, Instr.opcode, Instr.reserved, BitVec.toNat_ofNat]
  omega

theorem submit (buf : Handle) (cb : Callback) : Statement (.submit buf cb) := by
  intro _
  have hb := buf.isLt
  have hc := cb.isLt
  simp only [field, encode, Instr.opcode, Instr.reserved, BitVec.toNat_ofNat]
  omega

theorem isbusy : Statement .isbusy := fun _ => by decide

theorem shutdown : Statement .shutdown := fun _ => by decide

theorem strided (init : Bool) (buf : Handle) : Statement (.strided init buf) := by
  intro _
  have hb := buf.isLt
  simp only [field, encode, Instr.opcode, Instr.reserved, BitVec.toNat_ofNat]
  cases init <;> simp only [bitOf, Bool.false_eq_true, if_true, if_false] <;> omega

theorem localRemainder : Statement .localRemainder := fun _ => by decide

theorem ack (id : Nat) : Statement (.ack id) := by
  intro h
  simp only [Instr.wf, decide_eq_true_eq] at h
  simp only [field, encode, Instr.opcode, Instr.reserved, BitVec.toNat_ofNat]
  omega

theorem done (cb : Callback) (buf : Handle) : Statement (.done cb buf) := by
  intro _
  have hb := buf.isLt
  have hc := cb.isLt
  simp only [field, encode, Instr.opcode, Instr.reserved, BitVec.toNat_ofNat]
  omega

theorem rsp (busy : Bool) (status : Nat) : Statement (.rsp busy status) := by
  intro h
  simp only [Instr.wf, decide_eq_true_eq] at h
  simp only [field, encode, Instr.opcode, Instr.reserved, BitVec.toNat_ofNat]
  cases busy <;> simp only [bitOf, Bool.false_eq_true, if_true, if_false] <;> omega

end Sys2Proof.Laws.ReservedZero
end

