-- ==== Sys2Proof/Laws/Steps.lean ====
section
/-! SUPPORT. Everything one step can be. -/

namespace Sys2Proof.Machine

/-- A scheduled move that is not enabled changes nothing else (log 21). -/
theorem perform_disabled {m : Move} {s : State} (h : enabled m s = false) : perform m s = .next s := by
  simp [perform, h]

theorem perform_enabled {m : Move} {s : State} (h : enabled m s = true) : perform m s = act m s := by
  simp [perform, h]

/-- A step is a move of the schedule, or a freely chosen enabled move, or nothing. -/
theorem step_cases (s : State) :
    (∃ m ms, s.sched = m :: ms ∧ step s = perform m { s with sched := ms }) ∨
      (s.sched = [] ∧ ∃ m, enabled m s = true ∧ step s = perform m { s with draws := s.draws + 1 }) ∨
      (s.sched = [] ∧ (∀ m ∈ candidates s, enabled m s = false) ∧ step s = .next s) := by
  cases hs : s.sched with
  | cons m ms => exact .inl ⟨m, ms, rfl, by simp [step, advance, hs]⟩
  | nil =>
    cases he : enabledMoves s with
    | nil =>
      refine .inr (.inr ⟨rfl, ?_, by simp [step, advance, hs, he]⟩)
      intro m hm
      simpa using List.filter_eq_nil_iff.mp he m hm
    | cons m ms =>
      refine .inr (.inl ⟨rfl, (m :: ms).getD (Config.choice s.draws % (ms.length + 1)) m, ?_, ?_⟩)
      · have hall : ∀ x ∈ m :: ms, enabled x s = true := by
          intro x hx
          rw [← he] at hx
          exact (List.mem_filter.mp hx).2
        refine hall _ ?_
        have hlt : Config.choice s.draws % (ms.length + 1) < (m :: ms).length := Nat.mod_lt _ (Nat.succ_pos _)
        rw [List.getD_eq_getElem _ _ hlt]
        exact List.getElem_mem hlt
      · simp [step, advance, hs, he]

/-- A scheduled, enabled move that takes a message of its port executes it. -/
theorem step_exec {s : State} {m : Move} {ms : List Move} {w : Word} {i : Instr} (hs : s.sched = m :: ms)
    (he : enabled m { s with sched := ms } = true) (hf : fetch m { s with sched := ms } = some w)
    (hd : decode w = .instr i) (hp : i.port = portOf m { s with sched := ms }) (hr : m.isReceive = false) :
    step s = exec i (takeOff m { s with sched := ms }) := by
  simp [step, advance, hs, perform, he, act, hf, hr, deliver, hd, hp]

end Sys2Proof.Machine
end

