-- ==== Sys2Proof/Tests/Slice0.lean ====
section
/-! SUPPORT. Tests, their expected results taken from the spec's own examples and vectors (30_encoding.md, 95_test_vectors.md),
and a witness for the hypotheses of every obligation that has some. -/

namespace Sys2Proof.Tests

open Sys2Proof Sys2Proof.Machine

/-! ### WellFormed refuses each ill-formed operand -/

theorem test_wf_config_nu : (Instr.config 32 2).wf = false := by decide
theorem test_wf_config_hint_high : (Instr.config 3 32768).wf = false := by decide
theorem test_wf_config_hint_low : (Instr.config 3 (-32769)).wf = false := by decide
theorem test_wf_ack_id : (Instr.ack 65536).wf = false := by decide
theorem test_wf_rsp_status : (Instr.rsp true 256).wf = false := by decide
theorem test_wf_accepts : (Instr.config 31 (-32768)).wf = true ∧ (Instr.config 31 32767).wf = true ∧
    (Instr.ack 65535).wf = true ∧ (Instr.rsp true 255).wf = true := by decide

/-! ### Decoding: words written field by field from the formats of R92 to R99 -/

theorem test_decode_config : decode 0b0001_00011_0000000_0000000000000010#32 = .instr (.config 3 2) := by decide
theorem test_decode_config_negative :
    decode 0b0001_11111_0000000_1000000000000000#32 = .instr (.config 31 (-32768)) := by decide
theorem test_decode_submit : decode 0b0010_0000_00101010_0000000000000111#32 = .instr (.submit 7#16 0x2A#8) := by decide
theorem test_decode_isbusy : decode 0b0011_0000000000000000000000000000#32 = .instr .isbusy := by decide
theorem test_decode_shutdown : decode 0b0100_0000000000000000000000000000#32 = .instr .shutdown := by decide
theorem test_decode_strided : decode 0b1000_1_00000000000_0000000000000111#32 = .instr (.strided true 7#16) := by decide
theorem test_decode_strided_later : decode 0b1000_0_00000000000_1000000000000001#32 = .instr (.strided false 0x8001#16) := by
  decide
theorem test_decode_local : decode 0b1001_0000000000000000000000000000#32 = .instr .localRemainder := by decide
theorem test_decode_ack : decode 0b1010_000000000000_0000000000000011#32 = .instr (.ack 3) := by decide
theorem test_decode_done : decode 0b1100_0000_00101010_0000000000000111#32 = .instr (.done 0x2A#8 7#16) := by decide
theorem test_decode_rsp : decode 0b1110_0000000000000000000_1_00000001#32 = .instr (.rsp true 1) := by decide

/-- 30_encoding.md R101: every reserved `op`. -/
theorem test_decode_reserved : [0x0, 0x5, 0x6, 0x7, 0xB, 0xD, 0xF].all
    (fun op => decode (BitVec.ofNat 32 (op * 2 ^ 28)) == .reject .reservedOpcode) = true := by decide

/-- The ends of every reserved field (R91). -/
theorem test_decode_reserved_bits : [0x11C00002, 0x11810002, 0x282A0007, 0x212A0007, 0x38000000, 0x30000001, 0x48000000,
    0x40000001, 0x84000007, 0x80010007, 0x98000000, 0x90000001, 0xA8000003, 0xA0010003, 0xC82A0007, 0xC12A0007, 0xE8000101,
    0xE0000201].all (fun w => decode (BitVec.ofNat 32 w) == .reject .reservedBits) = true := by decide

theorem test_table_word : decodeTableWord 32 0x202A0007 = some (.submit 7#16 0x2A#8) ∧
    decodeTableWord 32 0x50000000 = none := by decide

/-! ### Integer operations and the LUT: 95_test_vectors.md sections 2, 3, 5 and 7 -/

theorem test_bitrev : (List.range 8).map (fun i => bitrev i 3) = [0, 4, 2, 6, 1, 5, 3, 7] ∧
    bitrev 12 5 = 6 ∧ bitrev 0x13 4 = 0xC ∧ bitrev 0x2A5 10 = 0x295 ∧ bitrev 0xFFFFFFFF 31 = 0x7FFFFFFF := by decide

theorem test_ceilpow2 : [-32768, -1, 0, 1, 2, 3, 4, 5, 8, 9].map ceilpow2 = [2, 2, 2, 2, 2, 4, 4, 8, 8, 16] := by decide

theorem test_strided_legs : stridedLegs 16 8 2 1 = [1, 5, 9, 13] ∧ stridedLegs 16 8 2 2 = [] ∧
    stridedLegs 8 2 4 0 = [0, 2] := by decide

theorem test_local_legs : blockLegs 8 8 4 = [8, 9, 10, 11] ∧ blockLegs 8 8 2 = [8, 9, 12, 13] ∧
    (blockLegs 8 8 1).map (fun k => twIndex 4 k 0) = [1, 5, 3, 7] := by decide

set_option maxRecDepth 4000 in
theorem test_lut : Twiddle.twGen 4 1 = (0x3F6C835E#32, 0x3EC3EF15#32) ∧
    Twiddle.twGen 4 13 = (0x3EC3EF15#32, 0xBF6C835E#32) ∧ Twiddle.twGen 5 1 = (0x3F7B14BE#32, 0x3E47C5C2#32) := by decide

set_option maxRecDepth 4000 in
/-- Section 3, `nu = 2`. -/
theorem test_build : (List.range 4).map (fun i => (Twiddle.twGen 2 i).1) = [0x3F800000#32, 0#32, 0xBF800000#32, 0#32] ∧
    (List.range 4).map (fun i => (Twiddle.twGen 2 i).2) = [0#32, 0x3F800000#32, 0#32, 0xBF800000#32] := by decide

/-! ### Butterflies: 95_test_vectors.md section 4 -/

/-- A NaN that no vector's result may show. -/
def someNaN : Nat → Sample := fun _ => 0x7FC00000#32

/-- B1, unfused. -/
theorem test_bfly_B1 : bflyLegs someNaN 0x3F3504F3#32 0x3F3504F3#32 0x3F800000#32 0x40000000#32 0x40400000#32 0x40800000#32 =
    ⟨0x40BE6454#32, 0x402D413D#32, 0xC07CC8A8#32, 0x3FA57D86#32⟩ := by decide

/-- B6, signs of zero. -/
theorem test_bfly_B6 : bflyLegs someNaN 0x3F800000#32 0#32 0x80000000#32 0x80000000#32 0x80000000#32 0x80000000#32 =
    ⟨0x80000000#32, 0x00000000#32, 0x00000000#32, 0x80000000#32⟩ := by decide

/-- B7, an invalid product. -/
theorem test_bfly_B7 : bflyLegs someNaN 0#32 0x3F800000#32 0#32 0#32 0x7F800000#32 0#32 =
    ⟨0x7FC00000#32, 0xFF800000#32, 0x7FC00000#32, 0x7F800000#32⟩ := by decide

set_option maxRecDepth 4000 in
/-- B8, overflow. -/
theorem test_bfly_B8 : bflyLegs someNaN 0x3F800000#32 0#32 0x7F7FFFFF#32 0#32 0x7F7FFFFF#32 0#32 =
    ⟨0x7F800000#32, 0#32, 0#32, 0#32⟩ := by decide

/-- B12, subnormals kept. -/
theorem test_bfly_B12 : bflyLegs someNaN 0x3F3504F3#32 0x3F3504F3#32 0#32 0#32 3#32 0#32 =
    ⟨2#32, 0x80000002#32, 0x80000002#32, 2#32⟩ := by decide

/-- B13 and B14, ties to even. -/
theorem test_bfly_ties : Binary32.fadd 0#32 0x4B800000#32 0x3F800000#32 = 0x4B800000#32 ∧
    Binary32.fadd 0#32 0x4B800000#32 0x40400000#32 = 0x4B800002#32 := by decide

/-! ### One step of each kind, on the engine of program P1 (95_test_vectors.md section 10) -/

/-- The next state, if there is one. -/
def nextOf (o : Host.Outcome State Fault Refusal) : Option State :=
  match o with
  | .next t => some t
  | .fault _ => none
  | .refused _ => none

/-- The fault, if there is one. -/
def faultOf (o : Host.Outcome State Fault Refusal) : Option Fault :=
  match o with
  | .next _ => none
  | .fault r => some r
  | .refused _ => none

/-- After `CONFIG 2, 2` with the spec's table, with the buffer of P1 at handle 1 and a short buffer at handle 9. -/
def idleP1 : State :=
  { State.reset with
    st := .idle, cosTab := [0x3F800000#32, 0#32, 0xBF800000#32, 0#32],
    sinTab := [0#32, 0x3F800000#32, 0#32, 0xBF800000#32],
    workers := [Worker.powerOn, Worker.powerOn], cmdq := [[], []],
    mem := [(1, ⟨[0x3F800000#32, 0x40000000#32, 0x40400000#32, 0x40800000#32], [0#32, 0#32, 0#32, 0#32]⟩),
      (9, ⟨[0#32, 0#32, 0#32, 0#32], [0#32, 0#32, 0#32]⟩)] }

/-- After `SUBMIT 1, 0`. -/
def distP1 : State :=
  { idleP1 with st := .dist, busy := true, buf := some 1#16, pack := 2, cmdq := [[0x88000001#32], [0x88000001#32]] }

/-- Step 11 of P1: the sample values at the start of the reorder pass. -/
def reordP1 : State :=
  { idleP1 with
    st := .reord, busy := true, buf := some 1#16,
    mem := [(1, ⟨[0x41200000#32, 0xC0000000#32, 0xC0000000#32, 0xC0000000#32], [0#32, 0#32, 0x40000000#32, 0xC0000000#32]⟩)],
    workers := [⟨-1, 0, 2, 1#16, .halted, []⟩, ⟨-1, 0, 2, 1#16, .halted, []⟩] }

theorem two_le_nuMax : 2 ≤ Config.nuMax := by simp [Config.nuMax]

theorem two_le_ntMax : 2 ≤ Config.ntMax := by
  rw [Config.ntMax, Nat.pow_succ]
  exact Nat.le_mul_of_pos_left 2 (Nat.two_pow_pos _)

/-- P1 step 1: `0xE0000000`, IDLE. -/
theorem test_config : (nextOf (exec (.config 2 2) State.reset)).map (fun t => (t.st, t.nt, t.sul, t.seen)) =
    some (.idle, 2, 1, [.response 0xE0000000#32]) := by
  have h : (2 ≤ Config.nuMax ∧ ceilpow2 2 ≤ Config.ntMax) ↔ True := ⟨fun _ => trivial, fun _ => ⟨two_le_nuMax, two_le_ntMax⟩⟩
  have hc : ceilpow2 2 = 2 := by decide
  have he : encode (.rsp false 0) = 0xE0000000#32 := by decide
  simp [exec, execConfig, State.reset, nextOf, State.construct, State.respond, State.tell, Status.code, hc, he, two_le_nuMax,
    two_le_ntMax]

/-- `CONFIG 3, 5` (43_lifecycle.md R208): 8 workers are more than `N/2 = 4`; E_CONFIG. -/
theorem test_config_infeasible : (nextOf (exec (.config 3 5) State.reset)).map (fun t => (t.st, t.seen)) =
    some (.unconf, [.response 0xE0000002#32]) := by decide

/-- P1 step 2. -/
theorem test_submit : nextOf (exec (.submit 1#16 0#8) idleP1) = some { distP1 with seen := [.response 0xE0000100#32] } := by decide

/-- Section 6: `lenI` is one short. -/
theorem test_submit_short : nextOf (exec (.submit 9#16 0#8) idleP1) = some { idleP1 with seen := [.response 0xE0000003#32] } := by
  decide

theorem test_isbusy : nextOf (exec .isbusy distP1) = some { distP1 with seen := [.response 0xE0000100#32] } ∧
    nextOf (exec .isbusy idleP1) = some { idleP1 with seen := [.response 0xE0000000#32] } := by decide

theorem test_shutdown : nextOf (exec .shutdown State.reset) = some { State.reset with seen := [.response 0xE0000005#32] } ∧
    faultOf (exec .shutdown distP1) = some .shutdownInFlight := by decide

/-- The registers that SHUTDOWN gives a value. -/
theorem test_shutdown_idle : (exec .shutdown idleP1) = .next (idleP1.release.respond .ok) ∧ idleP1.release.st = .unconf := by
  constructor <;> rfl

/-- P1 step 3: worker 1, butterfly (1,3,0). -/
theorem test_strided : (nextOf (exec (.strided true 1#16) { distP1 with acting := 1 })).map
      (fun t => ((t.mem.lookup 1).real, t.worker 1, t.ackq)) =
    some ([0x3F800000#32, 0x40C00000#32, 0x40400000#32, 0xC0000000#32], ⟨0, 1, 1, 1#16, .halted, []⟩, [0xA0000001#32]) := by
  decide

/-- 41_worker.md R150 with no stage left: no butterfly, the stage counted, the report sent. -/
theorem test_strided_no_stage : nextOf (exec (.strided false 5#16) State.reset) =
    some { State.reset with workers := [⟨-2, 0, 1, 0#16, .halted, []⟩], ackq := [0xA0000000#32] } := by decide

/-- P1 step 8: worker 1, butterfly (2,3,1), factor `-i`. -/
theorem test_local : (nextOf (exec .localRemainder
      { distP1 with
        acting := 1, st := .localPhase, workers := [Worker.powerOn, ⟨0, 1, 1, 1#16, .halted, []⟩],
        mem := [(1, ⟨[0x41200000#32, 0xC0000000#32, 0xC0000000#32, 0xC0000000#32], [0#32, 0#32, 0#32, 0#32]⟩)] })).map
      (fun t => ((t.mem.lookup 1).imag, (t.mem.lookup 1).real, t.worker 1)) =
    some ([0#32, 0#32, 0x40000000#32, 0xC0000000#32], [0x41200000#32, 0xC0000000#32, 0xC0000000#32, 0xC0000000#32],
      ⟨-1, 0, 2, 1#16, .halted, []⟩) := by decide

/-- P1 steps 5 and 6. -/
theorem test_ack : (nextOf (exec (.ack 1) distP1)).map (fun t => (t.pack, t.st)) = some (1, .dist) ∧
    (nextOf (exec (.ack 0) { distP1 with pack := 1, cmdq := [[], []] })).map (fun t => (t.pack, t.st, t.cmdq)) =
      some (2, .localPhase, [[0x90000000#32], [0x90000000#32]]) := by decide

/-- P1 step 11, k = 1: the exchange (1,2). -/
theorem test_reorder : (nextOf (perform .reorder { reordP1 with rk := 1 })).map
      (fun t => (t.rk, (t.mem.lookup 1).imag)) = some (2, [0#32, 0x40000000#32, 0#32, 0xC0000000#32]) := by decide

/-- P1 step 12. -/
theorem test_notify : (nextOf (perform .notify { reordP1 with rk := 4 })).map (fun t => (t.evq, t.buf, t.notified)) =
    some ([0xC0000001#32], none, true) := by decide

theorem test_done : (nextOf (exec (.done 0x2A#8 7#16) idleP1)).map (fun t => t.seen) = some [.completion 0x2A#8 7#16] := by
  decide

/-- 10_state.md R46: the word goes to the host and none stays on the port. -/
theorem test_fetch_rsp : nextOf (step (State.reset.withFetchWord 32 0xE0000101)) =
    some { State.reset with seen := [.response 0xE0000101#32] } := by decide

theorem test_rsp : (nextOf (exec (.rsp true 1) idleP1)).map (fun t => t.seen) = some [.response 0xE0000101#32] := by decide

/-- Section 6: an internal `op` on the host port, from an engine that is busy. -/
theorem test_illegal : (nextOf (step { distP1 with sched := [.host], hostq := [.word 0x88000007#32] })).map (fun t => (t.seen, t.rsp)) =
    some ([.response 0xE0000106#32], none) := by decide

theorem test_fetch_word : nextOf (step (State.reset.withFetchWord 32 0x30000000)) =
    some { State.reset with seen := [.response 0xE0000005#32] } := by decide

/-! ### Witnesses: a state and operands that meet all the hypotheses of each obligation, clause by clause -/

theorem witness_DecodeOfEncode : (Instr.config 31 (-32768)).wf = true ∧ (Instr.ack 65535).wf = true ∧
    (Instr.rsp true 255).wf = true ∧ (Instr.strided true 0xFFFF#16).wf = true := by decide

theorem witness_EncodeOfDecode : decode 0x1180FFFF#32 = .instr (.config 3 (-1)) := by decide

/-- The state in which the next step is `m`. -/
def at_ (m : Move) (s : State) : State := { s with sched := [m] }

/-- A host word, a worker command, a report, a completion and a response, each about to be taken. -/
theorem witness_StepRunsDecodedMessage :
    (let s := at_ .host { State.reset with hostq := [.word 0x30000000#32] }
     enabled .host { s with sched := [] } = true ∧ fetch .host { s with sched := [] } = some 0x30000000#32 ∧
     decode 0x30000000#32 = .instr .isbusy ∧ Instr.isbusy.port = portOf .host { s with sched := [] }) ∧
    (let s := at_ (.command 1) distP1
     enabled (.command 1) { s with sched := [] } = true ∧ fetch (.command 1) { s with sched := [] } = some 0x88000001#32 ∧
     (Instr.strided true 1#16).port = portOf (.command 1) { s with sched := [] } ∧ Move.isReceive (.command 1) = false) ∧
    (let s := at_ (.collect 0) { distP1 with ackq := [0xA0000000#32] }
     enabled (.collect 0) { s with sched := [] } = true ∧ fetch (.collect 0) { s with sched := [] } = some 0xA0000000#32 ∧
     (Instr.ack 0).port = portOf (.collect 0) { s with sched := [] }) ∧
    (let s := at_ .host { idleP1 with evq := [0xC0000001#32], hostq := [.waitDone] }
     enabled .host { s with sched := [] } = true ∧ fetch .host { s with sched := [] } = some 0xC0000001#32 ∧
     (Instr.done 0#8 1#16).port = portOf .host { s with sched := [] }) ∧
    (let s := at_ .response { idleP1 with rsp := some 0xE0000000#32 }
     enabled .response { s with sched := [] } = true ∧ fetch .response { s with sched := [] } = some 0xE0000000#32 ∧
     (Instr.rsp false 0).port = portOf .response { s with sched := [] }) := by decide

theorem witness_FetchWordRunsNext : decode 0x30000000#32 = .instr .isbusy ∧ Instr.isbusy.port ≠ .workerCommand ∧
    Instr.isbusy.port ≠ .hostResponse ∧ decode 0xE0000101#32 = .instr (.rsp true 1) ∧
    (Instr.rsp true 1).port = .hostResponse ∧ decode 0x90000000#32 = .instr .localRemainder ∧
    Instr.localRemainder.port = .workerCommand ∧ 0 < State.reset.nt := by
  decide

theorem witness_IllegalHostWordAnswered :
    (let w := 0x88000007#32; field w 31 28 ≠ 1 ∧ field w 31 28 ≠ 2 ∧ field w 31 28 ≠ 3 ∧ field w 31 28 ≠ 4) ∧
    (let w := 0x11C00002#32; field w 31 28 = 1 ∧ field w 22 16 ≠ 0) ∧
    (let w := 0x212A0007#32; field w 31 28 = 2 ∧ field w 27 24 ≠ 0) ∧
    (let w := 0x30000001#32; field w 31 28 = 3 ∧ field w 27 0 ≠ 0) ∧
    (let w := 0x48000000#32; field w 31 28 = 4 ∧ field w 27 0 ≠ 0) ∧
    (at_ .host { State.reset with hostq := [.word 0x88000007#32] }).sched = [.host] := by decide

/-- A state whose next step takes the word `w` from the host. -/
def hostWord (w : Word) (s : State) : State := { s with sched := [.host], hostq := [.word w] }

theorem witness_OneResponsePerHostWord :
    (∃ t, step (hostWord 0x30000000#32 idleP1) = .next t) ∧ (∃ t, step (at_ (.collect 0) { distP1 with ackq := [0xA0000000#32] }) =
      .next t) ∧ idleP1.rsp = none ∧ distP1.rsp = none ∧
    ∀ w q, ¬ (Move.collect 0 = .host ∧ distP1.hostq = .word w :: q) := by
  refine ⟨⟨_, rfl⟩, ⟨_, rfl⟩, rfl, rfl, ?_⟩
  intro w q h
  cases h.1

theorem witness_RejectedCommandChangesNothing :
    step (hostWord 0x202A0007#32 State.reset) = .next { State.reset with seen := [.response 0xE0000005#32] } ∧
    field 0xE0000005#32 7 0 ≠ 0 := by
  refine ⟨rfl, by decide⟩

theorem witness_BitrevIsAnInvolution : 6 < 2 ^ 3 ∧ 1 ≤ 3 ∧ 3 < 2 ^ (3 - 1) ∧ 6 % 2 = 0 := by decide

theorem witness_Ceilpow2IsTheSmallest : (1 : Nat) ≤ 15 ∧ (32767 : Int) ≤ ((2 ^ 15 : Nat) : Int) := by decide

theorem witness_TwiddleSymmetries : (2 ≤ 2 ∧ 2 ≤ 31 ∧ 2 < 3 * 2 ^ 2 / 4 ∧ 0 < 3 ∧ 3 < 2 ^ 2 ∧ 2 + 1 ≤ 31) ∧
    (2 ≤ 31 ∧ 31 ≤ 31 ∧ 3 ≤ 31 ∧ 7 % 2 = 1 ∧ 7 < 8) := by decide

theorem witness_TwiddleIndexInFirstHalf : 2 < 3 ∧ 3 < 2 ^ 3 ∧ Nat.testBit 3 2 = false := by decide

set_option maxRecDepth 4000 in
theorem witness_FaddRoundsToNearestEven : Binary32.isFinite 0x7F7FFFFF#32 = true ∧ Binary32.isFinite 0x00000001#32 = true ∧
    Binary32.isInf (Binary32.fadd 0#32 0x7F7FFFFF#32 0x7F7FFFFF#32) = true ∧
    Binary32.isFinite (Binary32.fadd 0#32 0x7F7FFFFF#32 0x00000001#32) = true := by decide

set_option maxRecDepth 4000 in
theorem witness_FmulRoundsToNearestEven : Binary32.isFinite 0x7F7FFFFF#32 = true ∧ Binary32.isFinite 0x40000000#32 = true ∧
    Binary32.isInf (Binary32.fmul 0#32 0x7F7FFFFF#32 0x40000000#32) = true ∧
    Binary32.isFinite (Binary32.fmul 0#32 0x00000001#32 0x40000000#32) = true := by decide

theorem witness_SpecialOperands : Binary32.isNaN 0x7F800001#32 = true ∧
    (Binary32.isInf 0x7F800000#32 = true ∧ Binary32.isInf 0xFF800000#32 = true ∧
      Binary32.sign 0x7F800000#32 ≠ Binary32.sign 0xFF800000#32) ∧
    (Binary32.isFinite 0x80000000#32 = true ∧ Binary32.mag 0x80000000#32 = 0) ∧
    (Binary32.isFinite 0x00000001#32 = true ∧ Binary32.mag 0x00000001#32 ≠ 0) := by decide

theorem witness_EveryNaNCanBeDrawn : Binary32.isNaN 0x7F800001#32 = true ∧ Binary32.isNaN 0xFFFFFFFF#32 = true := by decide

theorem witness_NanFreeButterflyIgnoresDraws :
    (∀ j, Binary32.isNaN (someNaN j) = true) ∧
    (let r := bflyLegs someNaN 0x3F800000#32 0#32 0x80000000#32 0x80000000#32 0x80000000#32 0x80000000#32
     Binary32.isNaN r.real1 = false ∧ Binary32.isNaN r.imag1 = false ∧ Binary32.isNaN r.real2 = false ∧
     Binary32.isNaN r.imag2 = false) := by
  refine ⟨fun j => by simp only [someNaN]; decide, by decide⟩

/-- Worker 1 of P1 at its LOCAL command. -/
def localP1 : State :=
  { distP1 with st := .localPhase, acting := 1, workers := [⟨0, 1, 1, 1#16, .halted, []⟩, ⟨0, 1, 1, 1#16, .halted, []⟩],
                cmdq := [[0x90000000#32], [0x90000000#32]] }

theorem witness_ButterflyWritesBothLegs :
    0 < (localP1.worker 1).n2 ∧ localP1.mem.readEl ⟨(localP1.worker 1).buf, .real, 2⟩ = some 0x40400000#32 ∧
    localP1.mem.readEl ⟨(localP1.worker 1).buf, .imag, 2⟩ = some 0#32 ∧
    localP1.mem.readEl ⟨(localP1.worker 1).buf, .real, 2 + (localP1.worker 1).n2⟩ = some 0x40800000#32 ∧
    localP1.mem.readEl ⟨(localP1.worker 1).buf, .imag, 2 + (localP1.worker 1).n2⟩ = some 0#32 := by decide

/-- `init = 1` at the last worker, and `init = 0` with one stage of span 1 left, and with none. -/
theorem witness_StridedCompletes :
    (workerCountOk distP1.nu distP1.nt = true ∧ 1 < distP1.nt ∧ 2 ^ (distP1.nu - 1) = 2 ^ 1 ∧ 1 < distP1.nu ∧
      distP1.mem.longEnough 1#16 distP1.size = true) ∧
    (State.reset.acting < State.reset.nt ∧ (State.reset.worker State.reset.acting).n2 = 0) ∧
    (localP1.acting < localP1.nt ∧ (localP1.worker localP1.acting).n2 = 2 ^ 0 ∧ 0 < localP1.nu ∧
      localP1.mem.longEnough (localP1.worker localP1.acting).buf localP1.size = true) := by decide

theorem witness_StridedAppliesEachButterflyOnce :
    (∃ t, exec (.strided true 1#16) { distP1 with acting := 1 } = .next t) ∧
    (stridedLegs distP1.size distP1.nt (2 ^ 1) 1)[0]? = some 1 ∧
    distP1.mem.readEl ⟨1#16, .real, 1⟩ = some 0x40000000#32 ∧ distP1.mem.readEl ⟨1#16, .imag, 1⟩ = some 0#32 ∧
    distP1.mem.readEl ⟨1#16, .real, 1 + 2 ^ 1⟩ = some 0x40800000#32 ∧
    distP1.mem.readEl ⟨1#16, .imag, 1 + 2 ^ 1⟩ = some 0#32 := by
  refine ⟨⟨_, rfl⟩, ?_⟩
  decide

theorem witness_StridedRoundIsAPartition : workerCountOk 3 4 = true ∧ 1 < 3 ∧ 3 < 4 ∧ 5 ∈ stridedLegs (2 ^ 3) 4 (2 ^ 1) 1 ∧
    5 < 2 ^ 3 ∧ Nat.testBit 5 1 = false ∧ Nat.testBit 4 1 = false := by decide

theorem witness_WorkerCommandStops :
    workerCountOk { State.reset with nt := 3 }.nu { State.reset with nt := 3 }.nt = false ∧
    localP1.mem.readEl ⟨(localP1.worker 1).buf, .real, 3 + (localP1.worker 1).n2⟩ = none := by decide

theorem witness_LocalCompletes :
    (workerCountOk State.reset.nu State.reset.nt = true ∧ State.reset.acting < State.reset.nt ∧
      (State.reset.worker State.reset.acting).n2 = 0) ∧
    workerCountOk localP1.nu localP1.nt = true ∧ localP1.acting < localP1.nt ∧
    (localP1.worker localP1.acting).n2 = 2 ^ 0 ∧ (localP1.acting + 1) * (2 * 2 ^ 0) ≤ localP1.size ∧
    localP1.mem.longEnough (localP1.worker localP1.acting).buf localP1.size = true := by decide

theorem witness_LocalRunsAllStages :
    (∃ t, exec .localRemainder localP1 = .next t) ∧ localP1.acting * (2 * 2 ^ 0) ≤ 2 ∧
    2 < (localP1.acting + 1) * (2 * 2 ^ 0) ∧ Nat.testBit 2 (0 - 0) = false ∧
    localP1.mem.readEl ⟨1#16, .real, 2⟩ = some 0x40400000#32 ∧ localP1.mem.readEl ⟨1#16, .imag, 2⟩ = some 0#32 ∧
    localP1.mem.readEl ⟨1#16, .real, 2 + 2 ^ (0 - 0)⟩ = some 0x40800000#32 ∧
    localP1.mem.readEl ⟨1#16, .imag, 2 + 2 ^ (0 - 0)⟩ = some 0#32 := by
  refine ⟨⟨_, rfl⟩, ?_⟩
  decide

theorem witness_LocalBlocksAreAPartition : workerCountOk 4 4 = true ∧ 2 ^ (1 + 1) ≤ 2 ^ 4 / 4 ∧ 3 < 4 ∧
    13 ∈ blockLegs (3 * (2 ^ 4 / 4)) (2 ^ 4 / 4) (2 ^ 1) ∧ 13 < 2 ^ 4 ∧ Nat.testBit 13 1 = false := by decide

theorem witness_WholeCommandIsItsAtoms :
    enabled (.command 1) distP1 = true ∧ ∃ t, perform (.command 1) distP1 = .next t := ⟨by decide, _, rfl⟩

theorem witness_ConfigConstructs : State.reset.st = .unconf ∧ 1 ≤ 2 ∧ ceilpow2 2 ≤ 2 ^ 2 / 2 ∧ 2 ≤ Config.nuMax ∧
    ceilpow2 2 ≤ Config.ntMax :=
  ⟨rfl, by decide, by decide, two_le_nuMax, two_le_ntMax⟩

theorem witness_ConfigFailures : idleP1.st ≠ .unconf ∧ (State.reset.st = .unconf ∧ 0 < 1) ∧
    (State.reset.st = .unconf ∧ 2 ^ 1 / 2 < ceilpow2 (-1)) ∧
    (1 ≤ Config.nuMax + 1 ∧ ceilpow2 2 ≤ 2 ^ (Config.nuMax + 1) / 2 ∧ Config.nuMax < Config.nuMax + 1) := by
  refine ⟨by decide, by decide, by decide, by omega, ?_, by omega⟩
  rw [Nat.pow_succ, Nat.mul_div_cancel _ (by decide)]
  exact Nat.le_trans (by decide : ceilpow2 2 ≤ 2 ^ 2) (Nat.pow_le_pow_right (by decide) two_le_nuMax)

theorem witness_ShutdownReleases : (idleP1.st ≠ .unconf ∧ idleP1.busy = false) ∧ State.reset.st = .unconf := by decide

theorem witness_ShutdownInFlightFaults : distP1.st ≠ .unconf ∧ distP1.busy = true := by decide

theorem witness_SubmitStartsATransform : idleP1.st ≠ .unconf ∧ idleP1.busy = false ∧
    idleP1.size ≤ (idleP1.mem.lookup (1#16).toNat).real.length ∧
    idleP1.size ≤ (idleP1.mem.lookup (1#16).toNat).imag.length ∧ 1 < idleP1.nt ∧ idleP1.nt ≤ 2 := by decide

theorem witness_SubmitRejections : State.reset.st = .unconf ∧ (distP1.st ≠ .unconf ∧ distP1.busy = true) ∧
    (idleP1.st ≠ .unconf ∧ idleP1.busy = false ∧ (idleP1.mem.lookup (9#16).toNat).imag.length < idleP1.size) := by decide

theorem witness_IsbusyAnswersBusy : State.reset.st = .unconf ∧ idleP1.st ≠ .unconf ∧ distP1.busy = true := by decide

theorem witness_AckIsCounted : distP1.st = .dist ∧ localP1.st = .localPhase ∧ 2 ≤ distP1.pack := by decide

/-- The last report of the only STRIDED round, and of the first of two. -/
theorem witness_LastAckOfADistributedRound :
    (let s := { distP1 with pack := 1 }; s.st = .dist ∧ s.pack = 1 ∧ s.nt ≤ s.phase) ∧
    (let s := { distP1 with pack := 1, nt := 4 }; s.st = .dist ∧ s.pack = 1 ∧ s.phase < s.nt ∧ s.buf = some 1#16) := by
  decide

theorem witness_LastAckOfTheLocalRound : localP1.st = .localPhase ∧ { localP1 with pack := 1 }.pack = 1 := by decide

theorem witness_StrayAckRefused : (idleP1.st ≠ .dist ∧ idleP1.st ≠ .localPhase) ∧ { distP1 with pack := 0 }.pack = 0 := by
  decide

theorem witness_ReportOrderDoesNotMatter :
    let s := { distP1 with ackq := [0xA0000001#32, 0xA0000000#32] }
    (∃ t, perform (.collect 0) s = .next t) ∧ (∃ u, perform (.collect 1) s = .next u) ∧ 0 < s.ackq.length ∧
      1 < s.ackq.length :=
  ⟨⟨_, rfl⟩, ⟨_, rfl⟩, by decide, by decide⟩

theorem witness_ReorderStepExchanges :
    let s := at_ .reorder { reordP1 with rk := 1 }
    s.sched = [.reorder] ∧ s.st = .reord ∧ s.rk < s.size ∧ s.buf = some 1#16 ∧ s.mem.longEnough 1#16 s.size = true ∧
      s.rk < bitrev s.rk s.nu := by decide

theorem witness_ReorderPassPermutes : reordP1.st = .reord ∧ reordP1.rk = 0 ∧ reordP1.buf = some 1#16 ∧
    reordP1.mem.longEnough 1#16 reordP1.size = true := by decide

theorem witness_NotifyEmitsDone :
    let s := at_ .notify { reordP1 with rk := 4 }
    s.sched = [.notify] ∧ s.st = .reord ∧ s.rk = s.size ∧ s.notified = false ∧ s.buf = some 1#16 ∧ s.spoiled = false := by
  decide

theorem witness_ReturnToIdle :
    let s := at_ .toIdle { reordP1 with rk := 4, notified := true, buf := none }
    s.sched = [.toIdle] ∧ s.st = .reord ∧ s.notified = true := by decide

theorem witness_HostTakesInOrder :
    (let s := at_ .host { idleP1 with evq := [0xC0000001#32], hostq := [.waitDone] }
     s.sched = [.host] ∧ s.hostq = [.waitDone] ∧ s.evq = [encode (.done 0#8 1#16)]) ∧
    (let s := at_ .response { idleP1 with rsp := some 0xE00000FF#32 }
     255 < 256 ∧ s.sched = [.response] ∧ s.rsp = some (encode (.rsp false 255))) := by decide

theorem witness_OnlyNotifyEmitsDone : ∃ t, step (at_ .notify { reordP1 with rk := 4 }) = .next t := ⟨_, rfl⟩

/-- A lent element, an element of another buffer, and one of the lent buffer at the length `N`. -/
theorem witness_HostAccessToLentBuffer :
    (distP1.mem.readEl ⟨1#16, .real, 3⟩ = some 0x40800000#32 ∧ distP1.buf = some 1#16 ∧ 3 < distP1.size) ∧
    (distP1.mem.readEl ⟨9#16, .imag, 2⟩ = some 0#32 ∧ distP1.buf ≠ some 9#16) ∧
    (let m : Memory := [(1, ⟨[1#32, 2#32, 3#32, 4#32, 5#32], [1#32, 2#32, 3#32, 4#32]⟩)]
     m.readEl ⟨1#16, .real, 4⟩ = some 5#32 ∧ distP1.size ≤ 4) := by decide

/-- The engine of P1 with the tables `TwGen` gives, whatever it is. -/
def cfgP1 : State := { distP1 with cosTab := buildCos 2, sinTab := buildSin 2 }

theorem cfgP1_configured : cfgP1.ConfiguredOk where
  nu_low := by decide
  nu_high := by
    show 2 ≤ Config.nuMax
    exact two_le_nuMax
  count := by decide
  nt_high := by
    show 2 ≤ Config.ntMax
    exact two_le_ntMax
  sul := by decide
  cos := rfl
  sin := rfl
  workers := rfl
  channels := rfl

theorem cfgP1_round : cfgP1.RoundOk where
  phase := ⟨1, by decide, by decide, by decide, by decide⟩
  buffer := ⟨1#16, by decide, by decide, by decide⟩
  reports := fun x h => by cases h
  owed := by decide
  some_owed := by decide

/-- A transform that has just started meets the invariant. -/
theorem cfgP1_inv : cfgP1.Inv where
  busy := by decide
  memory := by decide
  configured := fun _ => cfgP1_configured
  resting := fun h => absurd h (by decide)
  round := fun _ => cfgP1_round
  reorder := fun h => absurd h (by decide)
  events := fun x h => by cases h
  responses := rfl

/-- The schedule and the host's actions are no part of the invariant. -/
theorem inv_with_moves {s : State} (h : s.Inv) (ms : List Move) (q : List HostAct) :
    { s with sched := ms, hostq := q }.Inv where
  busy := h.busy
  memory := h.memory
  configured := fun hs => ⟨(h.configured hs).1, (h.configured hs).2, (h.configured hs).3, (h.configured hs).4,
    (h.configured hs).5, (h.configured hs).6, (h.configured hs).7, (h.configured hs).8, (h.configured hs).9⟩
  resting := h.resting
  round := fun hs => ⟨(h.round hs).1, (h.round hs).2, (h.round hs).3, (h.round hs).4, (h.round hs).5⟩
  reorder := fun hs => ⟨(h.reorder hs).1, (h.reorder hs).2, (h.reorder hs).3, (h.reorder hs).4, (h.reorder hs).5⟩
  events := h.events
  responses := h.responses

theorem witness_EngineTouchesOnlyWhatItOwns :
    (at_ (.command 1) cfgP1).Inv ∧ (∃ t, step (at_ (.command 1) cfgP1) = .next t) ∧ cfgP1.buf ≠ some 9#16 ∧
    cfgP1.buf = some 1#16 ∧ cfgP1.size ≤ 4 :=
  ⟨inv_with_moves cfgP1_inv _ _, ⟨_, rfl⟩, by decide, by decide, by decide⟩

theorem witness_BusyTellsATransform :
    (let s := hostWord 0x20000001#32 idleP1
     (s.busy = true ↔ s.st = .dist ∨ s.st = .localPhase ∨ s.st = .reord) ∧ ∃ t, step s = .next t) ∧
    (let s := at_ .toIdle { reordP1 with rk := 4, notified := true, buf := none }
     (s.busy = true ↔ s.st = .dist ∨ s.st = .localPhase ∨ s.st = .reord) ∧ ∃ t, step s = .next t) :=
  ⟨⟨by decide, _, rfl⟩, by decide, _, rfl⟩

theorem witness_WhoWritesBusy :
    (∃ t, step (hostWord 0x20000001#32 idleP1) = .next t ∧ idleP1.busy ≠ t.busy) ∧
    (∃ t, step (at_ .toIdle { reordP1 with rk := 4, notified := true, buf := none }) = .next t ∧ reordP1.busy ≠ t.busy) :=
  ⟨⟨_, rfl, by decide⟩, _, rfl, by decide⟩

theorem witness_LutAndSizesAreConstant : (∃ t, step (at_ (.command 0) cfgP1) = .next t) ∧
    (∃ t, step (hostWord 0x40000000#32 idleP1) = .next t ∧ decode 0x40000000#32 = .instr .shutdown) :=
  ⟨⟨_, rfl⟩, _, rfl, by decide⟩

theorem witness_DescriptorsArePrivate : (∃ t, step (at_ (.command 0) cfgP1) = .next t) ∧ Move.command 0 ≠ .command 1 ∧
    Move.command 0 ≠ .receive 1 ∧ Move.command 0 ≠ .work 1 ∧ Move.command 0 ≠ .report 1 ∧ Move.command 0 ≠ .host :=
  ⟨⟨_, rfl⟩, by decide⟩

theorem witness_MemoryStaysCanonical : cfgP1.mem.wf = true ∧ ∃ t, step (at_ (.command 0) cfgP1) = .next t :=
  ⟨by decide, _, rfl⟩

theorem witness_ConfiguredEngineStaysOk : (cfgP1.st ≠ .unconf → cfgP1.ConfiguredOk) ∧
    ∃ t, step (at_ (.command 0) cfgP1) = .next t ∧ t.st ≠ .unconf :=
  ⟨cfgP1_inv.configured, _, rfl, by decide⟩

theorem witness_EngineInvariantKept : (at_ (.command 0) cfgP1).Inv ∧ ∃ t, step (at_ (.command 0) cfgP1) = .next t :=
  ⟨inv_with_moves cfgP1_inv _ _, _, rfl⟩

theorem witness_NothingIsRefused : cfgP1.Inv := cfgP1_inv

/-- SHUTDOWN in flight does stop a run. -/
theorem witness_OnlyTheHostCanStopARun : (hostWord 0x40000000#32 cfgP1).Inv ∧
    step (hostWord 0x40000000#32 cfgP1) = .fault .shutdownInFlight :=
  ⟨inv_with_moves cfgP1_inv _ _, rfl⟩

theorem witness_EveryTransformCanComplete : cfgP1.Inv ∧ cfgP1.inTransform = true ∧ cfgP1.buf = some 1#16 :=
  ⟨cfgP1_inv, by decide, by decide⟩

end Sys2Proof.Tests
end

section
/-! PROOFS. What the decoder accepts, what a port does with a word that is no message of it, and the answer to an illegal
word on the host command port (30_encoding.md R91, R101, R102). -/

namespace Sys2Proof

/-- A word is decoded as a message only with that message's opcode and with its reserved bits zero (R91, R101). -/
theorem opcode_and_reserved_of_decode {w : Word} {i : Instr} (h : decode w = .instr i) :
    field w 31 28 = i.opcode ∧ field w i.reserved.1 i.reserved.2 = 0 := by
  unfold decode at h
  split_ifs at h <;> cases h <;> exact ⟨‹_›, ‹_›⟩

/-- The legal words of the host command port: the four formats, each with its reserved bits zero (R92 to R94, R102). -/
theorem hostCommand_word_forms {w : Word} {i : Instr} (h : decode w = .instr i) (hp : i.port = .hostCommand) :
    (field w 31 28 = 1 ∧ field w 22 16 = 0) ∨ (field w 31 28 = 2 ∧ field w 27 24 = 0) ∨
      (field w 31 28 = 3 ∧ field w 27 0 = 0) ∨ (field w 31 28 = 4 ∧ field w 27 0 = 0) := by
  have hform := opcode_and_reserved_of_decode h
  cases i with
  | config nu hint => exact .inl hform
  | submit buf cb => exact .inr (.inl hform)
  | isbusy => exact .inr (.inr (.inl hform))
  | shutdown => exact .inr (.inr (.inr hform))
  | strided | localRemainder | ack | done | rsp => cases hp

namespace Machine

/-- A word that is no message of its port is stray there. -/
theorem deliver_eq_stray {p : Port} {w : Word} (h : ∀ i, decode w = .instr i → i.port ≠ p) (s : State) :
    deliver p w s = stray p w s := by
  cases hd : decode w with
  | instr i => simp [deliver, hd, h i hd]
  | reject r => simp [deliver, hd]

/-- A scheduled host move with a word at the head of the host's list delivers that word to the host command port. -/
theorem step_host_word {s : State} {ms : List Move} {q : List HostAct} {w : Word} (hs : s.sched = .host :: ms)
    (hq : s.hostq = .word w :: q) : step s = deliver .hostCommand w { s with sched := ms, hostq := q } := by
  simp [step, advance, hs, perform, enabled, hostEnabled, hq, act, fetch, Move.isReceive, portOf, takeOff]

/-- Settles O7: an illegal word has none of the forms of the port, so it is stray there, and a stray word is answered. -/
theorem illegalHostWordAnswered : Obligations.IllegalHostWordAnswered := by
  intro s ms q w hs hq hill
  have hno : ∀ i, decode w = .instr i → i.port ≠ .hostCommand := by
    intro i hd hp
    have hlegal := hostCommand_word_forms hd hp
    omega
  rw [step_host_word hs hq, deliver_eq_stray hno]
  rfl

end Machine

end Sys2Proof
end

section
/-! PROOFS. Which bit BITREV moves where, its range and its inverse (40_lut_bitrev.md R120, R121). -/

namespace Sys2Proof.Machine

/-- R121 (a). -/
theorem bitrev_lt (i nu : Nat) : bitrev i nu < 2 ^ nu := by
  induction nu generalizing i with
  | zero => simp
  | succ nu ih =>
    have hlow : bitrev (i / 2) nu < 2 ^ nu := ih (i / 2)
    obtain hbit | hbit := Nat.mod_two_eq_zero_or_one i <;> simp only [bitrev_succ, hbit, Nat.pow_succ] <;> omega

/-- Bit 0 of `i` becomes the top bit, and the bits of `i / 2` are reversed below it. -/
theorem testBit_bitrev (i nu b : Nat) : (bitrev i nu).testBit b = (decide (b < nu) && i.testBit (nu - 1 - b)) := by
  induction nu generalizing i with
  | zero => simp
  | succ nu ih =>
    rw [bitrev_succ, Nat.mul_comm, Nat.testBit_two_pow_mul_add _ (bitrev_lt (i / 2) nu)]
    obtain hlt | rfl | hgt := Nat.lt_trichotomy b nu
    · have hpos : nu - 1 - b + 1 = nu - b := by omega
      simp [hlt, Nat.lt_succ_of_lt hlt, ih, Nat.testBit_div_two, hpos]
    · simp [Nat.testBit_zero]
    · have htop : i % 2 < 2 ^ (b - nu) := lt_of_lt_of_le (Nat.mod_lt i two_pos) (Nat.le_self_pow (by omega) 2)
      simp [Nat.not_lt_of_gt hgt, Nat.not_lt_of_le hgt, Nat.testBit_lt_two_pow htop]

theorem testBit_bitrev_mirror {b nu : Nat} (hb : b < nu) (i : Nat) :
    (bitrev i nu).testBit (nu - 1 - b) = i.testBit b := by
  have hmirror : nu - 1 - b < nu := by omega
  have hback : nu - 1 - (nu - 1 - b) = b := by omega
  simp [testBit_bitrev, hmirror, hback]

/-- Bits of `i` from bit `nu` on are ignored (R120). -/
theorem bitrev_mod_two_pow (i nu : Nat) : bitrev (i % 2 ^ nu) nu = bitrev i nu := by
  refine Nat.eq_of_testBit_eq fun b => ?_
  rw [testBit_bitrev, testBit_bitrev, Nat.testBit_mod_two_pow]
  by_cases hb : b < nu
  · have hmirror : nu - 1 - b < nu := by omega
    simp [hmirror]
  · simp [hb]

/-- R121 (b). -/
theorem bitrev_bitrev {i nu : Nat} (h : i < 2 ^ nu) : bitrev (bitrev i nu) nu = i := by
  refine Nat.eq_of_testBit_eq fun b => ?_
  rw [testBit_bitrev]
  by_cases hb : b < nu
  · rw [testBit_bitrev_mirror hb, decide_eq_true hb, Bool.true_and]
  · have hhigh : i < 2 ^ b := lt_of_lt_of_le h (Nat.pow_le_pow_right two_pos (Nat.le_of_not_lt hb))
    simp [hb, Nat.testBit_lt_two_pow hhigh]

/-- R121 (c), the even indices. -/
theorem bitrev_two_mul (g nu : Nat) : bitrev (2 * g) (nu + 1) = bitrev g nu := by
  simp

/-- R121 (c), the odd indices. -/
theorem bitrev_two_mul_add_one (g nu : Nat) : bitrev (2 * g + 1) (nu + 1) = 2 ^ nu + bitrev g nu := by
  have hhalf : (2 * g + 1) / 2 = g := by omega
  simp [hhalf]

/-- R121 (d). -/
theorem bitrev_lt_of_even {i : Nat} (h : i % 2 = 0) (nu : Nat) : bitrev i (nu + 1) < 2 ^ nu := by
  simpa [h] using bitrev_lt (i / 2) nu

/-- Settles O10: the range, the ignored high bits and the mirrored position of each bit. -/
theorem bitrevMovesEveryBit : Obligations.BitrevMovesEveryBit :=
  fun nu i => ⟨bitrev_lt i nu, (bitrev_mod_two_pow i nu).symm, fun _ hb => testBit_bitrev_mirror hb i⟩

/-- Settles O11: the inverse bit by bit, the halving clauses by the recursion on the width. -/
theorem bitrevIsAnInvolution : Obligations.BitrevIsAnInvolution := by
  intro nu i hi
  refine ⟨bitrev_lt i nu, bitrev_bitrev hi, ?_⟩
  cases nu with
  | zero => simp
  | succ nu =>
    exact ⟨fun g _ _ => ⟨bitrev_two_mul g nu, bitrev_two_mul_add_one g nu⟩, fun _ heven => bitrev_lt_of_even heven nu⟩

end Sys2Proof.Machine
end

section
/-! PROOFS. What an exchange of two elements does to sample memory (42_coordinator.md R182). -/

namespace Sys2Proof.Machine

/-- Two elements written with each other's values: every element reads as the one it was exchanged with did. -/
theorem Memory.readEl_exchange {m : Memory} {a b : Addr} {x y : Sample} (ha : m.readEl a = some x)
    (hb : m.readEl b = some y) (c : Addr) :
    ((m.writeEl a y).writeEl b x).readEl c = m.readEl (Equiv.swap a b c) := by
  have hb' : (m.writeEl a y).readEl b = some y := by simp [Memory.readEl_writeEl ha, hb]
  rw [Memory.readEl_writeEl hb', Memory.readEl_writeEl ha]
  by_cases hcb : c = b
  · subst hcb; simp [ha]
  · by_cases hca : c = a
    · subst hca; simp [hcb, hb]
    · simp [hca, hcb, Equiv.swap_apply_of_ne_of_ne]

/-- The exchange changes no length (20_memory.md R60). -/
theorem Memory.longEnough_exchange {m : Memory} {a b : Addr} {x y : Sample} (ha : m.readEl a = some x)
    (hb : m.readEl b = some y) (h : Handle) (n : Nat) :
    ((m.writeEl a y).writeEl b x).longEnough h n = m.longEnough h n := by
  have hb' : (m.writeEl a y).readEl b = some y := by simp [Memory.readEl_writeEl ha, hb]
  rw [Memory.longEnough_writeEl hb', Memory.longEnough_writeEl ha]

section
variable {m : Memory} {h : Handle} {k ib : Nat} {xr yr xi yi : Sample}
  (hxr : m.readEl ⟨h, .real, k⟩ = some xr) (hyr : m.readEl ⟨h, .real, ib⟩ = some yr)
  (hxi : m.readEl ⟨h, .imag, k⟩ = some xi) (hyi : m.readEl ⟨h, .imag, ib⟩ = some yi)
include hxr hyr hxi hyi

/-- The exchange of the `imag` elements finds them as they were before the exchange of the `real` ones. -/
theorem swapEls_imag_operands :
    ((m.writeEl ⟨h, .real, k⟩ yr).writeEl ⟨h, .real, ib⟩ xr).readEl ⟨h, .imag, k⟩ = some xi ∧
    ((m.writeEl ⟨h, .real, k⟩ yr).writeEl ⟨h, .real, ib⟩ xr).readEl ⟨h, .imag, ib⟩ = some yi := by
  simp [Memory.readEl_exchange hxr hyr, Equiv.swap_apply_of_ne_of_ne, hxi, hyi]

theorem readEl_swapEls (c : Addr) :
    (swapEls m h k ib xr yr xi yi).readEl c =
      m.readEl (Equiv.swap ⟨h, .real, k⟩ ⟨h, .real, ib⟩ (Equiv.swap ⟨h, .imag, k⟩ ⟨h, .imag, ib⟩ c)) := by
  obtain ⟨hxi', hyi'⟩ := swapEls_imag_operands hxr hyr hxi hyi
  rw [swapEls, Memory.readEl_exchange hxi' hyi', Memory.readEl_exchange hxr hyr]

/-- Both sequences of the buffer are permuted alike. -/
theorem readEl_swapEls_same (p : Part) (i : Nat) :
    (swapEls m h k ib xr yr xi yi).readEl ⟨h, p, i⟩ = m.readEl ⟨h, p, Equiv.swap k ib i⟩ := by
  have hinj : Function.Injective (Addr.mk h p) := fun i j e => (Addr.mk.inj e).2.2
  rw [readEl_swapEls hxr hyr hxi hyi]
  cases p <;> simp [Equiv.swap_apply_of_ne_of_ne, hinj.swap_apply]

theorem readEl_swapEls_ne {c : Addr} (hc : c.handle ≠ h) :
    (swapEls m h k ib xr yr xi yi).readEl c = m.readEl c := by
  have hne : ∀ p i, c ≠ ⟨h, p, i⟩ := fun p i e => hc (congrArg Addr.handle e)
  rw [readEl_swapEls hxr hyr hxi hyi]
  simp [Equiv.swap_apply_of_ne_of_ne, hne]

theorem longEnough_swapEls (g : Handle) (n : Nat) :
    (swapEls m h k ib xr yr xi yi).longEnough g n = m.longEnough g n := by
  obtain ⟨hxi', hyi'⟩ := swapEls_imag_operands hxr hyr hxi hyi
  rw [swapEls, Memory.longEnough_exchange hxi' hyi', Memory.longEnough_exchange hxr hyr]

end

end Sys2Proof.Machine
end

section
/-! PROOFS. The reorder step as an exchange of indices, and which element the steps of the pass have brought to each
index (42_coordinator.md R182, R183). -/

namespace Sys2Proof.Machine

/-- The exchange of indices that the reorder step at index `n` makes (R182). -/
def reorderSwap (nu n : Nat) : Equiv.Perm Nat := if n < bitrev n nu then Equiv.swap n (bitrev n nu) else 1

theorem reorderSwap_of_lt {nu n : Nat} (h : n < bitrev n nu) : reorderSwap nu n = Equiv.swap n (bitrev n nu) := if_pos h

theorem reorderSwap_of_le {nu n : Nat} (h : bitrev n nu ≤ n) : reorderSwap nu n = 1 := if_neg (Nat.not_lt_of_le h)

/-- Whose old value element `k` holds once the steps at the indices below `n` are made: the pair `k`, `bitrev k` is
exchanged by the step at the smaller of the two. -/
def reorderSource (nu n k : Nat) : Nat :=
  if k < 2 ^ nu ∧ min k (bitrev k nu) < n then bitrev k nu else k

theorem reorderSource_zero (nu : Nat) : reorderSource nu 0 = id := funext fun k => by simp [reorderSource]

/-- After `N` steps every pair has been exchanged. -/
theorem reorderSource_size {nu k : Nat} (hk : k < 2 ^ nu) : reorderSource nu (2 ^ nu) k = bitrev k nu := by
  simp [reorderSource, hk]

theorem reorderSource_of_size_le {nu k : Nat} (hk : 2 ^ nu ≤ k) (n : Nat) : reorderSource nu n k = k := by
  simp [reorderSource, Nat.not_lt_of_le hk]

/-- An index that is its own mirror keeps its element. -/
theorem reorderSource_of_fixed {nu k : Nat} (h : bitrev k nu = k) (n : Nat) : reorderSource nu n k = k := by
  simp [reorderSource, h]

/-- The step at `n` is not the one that exchanges the pair of `k`, unless `n` is `k` or the partner of `k`. -/
theorem reorderSource_succ_of_ne {nu n k : Nat} (hk : k ≠ n) (hrev : k ≠ bitrev n nu) :
    reorderSource nu (n + 1) k = reorderSource nu n k := by
  obtain hsize | hsize := Nat.lt_or_ge k (2 ^ nu)
  · have hpartner : bitrev k nu ≠ n := fun e => hrev (by rw [← e, bitrev_bitrev hsize])
    have hsame : min k (bitrev k nu) < n + 1 ↔ min k (bitrev k nu) < n := by omega
    simp only [reorderSource, hsame]
  · simp only [reorderSource_of_size_le hsize]

/-- The step at the larger index of a pair, or at an index that is its own mirror, has nothing left to do. -/
theorem reorderSource_succ_of_le {nu n : Nat} (hn : n < 2 ^ nu) (hle : bitrev n nu ≤ n) (k : Nat) :
    reorderSource nu (n + 1) k = reorderSource nu n k := by
  have hback : bitrev (bitrev n nu) nu = n := bitrev_bitrev hn
  obtain hfix | hlt := Nat.eq_or_lt_of_le hle
  · by_cases hk : k = n
    · subst hk; simp only [reorderSource_of_fixed hfix]
    · exact reorderSource_succ_of_ne hk (hfix.symm ▸ hk)
  · by_cases hk : k = n
    · subst hk; simp [reorderSource, hlt]
    · by_cases hrev : k = bitrev n nu
      · subst hrev; simp [reorderSource, hback, hlt]
      · exact reorderSource_succ_of_ne hk hrev

/-- The exchange at `n`, made after the steps below `n`, gives the steps below `n + 1`. -/
theorem reorderSource_comp_reorderSwap {nu n : Nat} (hn : n < 2 ^ nu) :
    reorderSource nu n ∘ reorderSwap nu n = reorderSource nu (n + 1) := by
  funext k
  rw [Function.comp_apply]
  have hrev : bitrev n nu < 2 ^ nu := bitrev_lt n nu
  have hback : bitrev (bitrev n nu) nu = n := bitrev_bitrev hn
  obtain hle | hlt := le_or_gt (bitrev n nu) n
  · rw [reorderSwap_of_le hle, Equiv.Perm.one_apply, reorderSource_succ_of_le hn hle]
  · rw [reorderSwap_of_lt hlt]
    by_cases hk : k = n
    · subst hk
      simp [reorderSource, hn, hback, Nat.le_of_lt hlt]
    · by_cases hkrev : k = bitrev n nu
      · subst hkrev
        simp [reorderSource, hrev, hback, Nat.le_of_lt hlt]
      · rw [Equiv.swap_apply_of_ne_of_ne hk hkrev, reorderSource_succ_of_ne hk hkrev]

end Sys2Proof.Machine
end

section
/-! PROOFS. One reorder step, a list of moves in two parts, and the reorder pass (42_coordinator.md R182, R183). -/

namespace Sys2Proof.Machine

theorem performAll_append (l₁ l₂ : List Move) (s : State) :
    performAll (l₁ ++ l₂) s = andThen (performAll l₁ s) (performAll l₂) := by
  induction l₁ generalizing s with
  | nil => rfl
  | cons m l₁ ih =>
    have hrest : performAll (l₁ ++ l₂) = fun t => andThen (performAll l₁ t) (performAll l₂) := funext ih
    simp only [List.cons_append, performAll, hrest, andThen_assoc]

theorem performAll_singleton (m : Move) (s : State) : performAll [m] s = perform m s := by
  simp only [performAll]
  cases perform m s <;> rfl

/-- The reorder move is enabled in REORD while `RK < N`, and takes no word. -/
theorem perform_reorder {s : State} (hst : s.st = .reord) (hrk : s.rk < s.size) :
    perform .reorder s = reorderStep s := by
  simp [perform, enabled, hst, hrk, act, fetch, wordless]

/-- A reorder step at an index whose mirror is not above it moves `RK` on and exchanges nothing. -/
theorem reorderStep_of_le {s : State} (hle : bitrev s.rk s.nu ≤ s.rk) :
    reorderStep s = .next { s with rk := s.rk + 1 } := if_neg (Nat.not_lt_of_le hle)

/-- A reorder step that exchanges two elements. -/
theorem reorderStep_of_lt {s : State} {h : Handle} {xr yr xi yi : Sample} (hlt : s.rk < bitrev s.rk s.nu)
    (hbuf : s.buf = some h) (hxr : s.mem.readEl ⟨h, .real, s.rk⟩ = some xr)
    (hyr : s.mem.readEl ⟨h, .real, bitrev s.rk s.nu⟩ = some yr) (hxi : s.mem.readEl ⟨h, .imag, s.rk⟩ = some xi)
    (hyi : s.mem.readEl ⟨h, .imag, bitrev s.rk s.nu⟩ = some yi) :
    reorderStep s = .next { s with mem := swapEls s.mem h s.rk (bitrev s.rk s.nu) xr yr xi yi, rk := s.rk + 1 } := by
  simp [reorderStep, hlt, hbuf, hxr, hyr, hxi, hyi]

/-- Memory `m'` is `m` with both sequences of buffer `h` permuted: index `i` holds what was at `f i`. -/
structure Memory.PermutedBy (h : Handle) (f : Nat → Nat) (m m' : Memory) : Prop where
  moved : ∀ p i, m'.readEl ⟨h, p, i⟩ = m.readEl ⟨h, p, f i⟩
  others : ∀ b : Addr, b.handle ≠ h → m'.readEl b = m.readEl b
  lengths : ∀ n, m'.longEnough h n = m.longEnough h n

theorem Memory.PermutedBy.refl (h : Handle) (m : Memory) : Memory.PermutedBy h id m m :=
  ⟨fun _ _ => rfl, fun _ _ => rfl, fun _ => rfl⟩

theorem Memory.PermutedBy.trans {h : Handle} {f g : Nat → Nat} {m m' m'' : Memory}
    (h₁ : Memory.PermutedBy h f m m') (h₂ : Memory.PermutedBy h g m' m'') :
    Memory.PermutedBy h (f ∘ g) m m'' where
  moved p i := (h₂.moved p i).trans (h₁.moved p (g i))
  others b hb := (h₂.others b hb).trans (h₁.others b hb)
  lengths n := (h₂.lengths n).trans (h₁.lengths n)

theorem swapEls_permutedBy {m : Memory} {h : Handle} {k ib : Nat} {xr yr xi yi : Sample}
    (hxr : m.readEl ⟨h, .real, k⟩ = some xr) (hyr : m.readEl ⟨h, .real, ib⟩ = some yr)
    (hxi : m.readEl ⟨h, .imag, k⟩ = some xi) (hyi : m.readEl ⟨h, .imag, ib⟩ = some yi) :
    Memory.PermutedBy h (Equiv.swap k ib) m (swapEls m h k ib xr yr xi yi) where
  moved := readEl_swapEls_same hxr hyr hxi hyi
  others _ hb := readEl_swapEls_ne hxr hyr hxi hyi hb
  lengths := longEnough_swapEls hxr hyr hxi hyi h

/-- A reorder move on a buffer of at least `N` elements goes on, and exchanges indices by `reorderSwap` (R182). -/
theorem perform_reorder_permutes {s : State} {h : Handle} (hst : s.st = .reord) (hrk : s.rk < s.size)
    (hbuf : s.buf = some h) (hlong : s.mem.longEnough h s.size = true) :
    ∃ m, perform .reorder s = .next { s with rk := s.rk + 1, mem := m } ∧
      Memory.PermutedBy h (reorderSwap s.nu s.rk) s.mem m := by
  rw [perform_reorder hst hrk]
  obtain hle | hlt := le_or_gt (bitrev s.rk s.nu) s.rk
  · exact ⟨s.mem, reorderStep_of_le hle, reorderSwap_of_le hle ▸ .refl h s.mem⟩
  · have hrev : bitrev s.rk s.nu < s.size := bitrev_lt s.rk s.nu
    obtain ⟨xr, hxr⟩ := Memory.readEl_of_longEnough hlong hrk .real
    obtain ⟨yr, hyr⟩ := Memory.readEl_of_longEnough hlong hrev .real
    obtain ⟨xi, hxi⟩ := Memory.readEl_of_longEnough hlong hrk .imag
    obtain ⟨yi, hyi⟩ := Memory.readEl_of_longEnough hlong hrev .imag
    exact ⟨_, reorderStep_of_lt hlt hbuf hxr hyr hxi hyi,
      reorderSwap_of_lt hlt ▸ swapEls_permutedBy hxr hyr hxi hyi⟩

/-- The first `n` reorder steps of a pass go on, and bring to each index the element of `reorderSource`. -/
theorem reorderSteps_permute {s : State} {h : Handle} (hst : s.st = .reord) (hrk : s.rk = 0) (hbuf : s.buf = some h)
    (hlong : s.mem.longEnough h s.size = true) {n : Nat} (hn : n ≤ s.size) :
    ∃ m, performAll (List.replicate n .reorder) s = .next { s with rk := n, mem := m } ∧
      Memory.PermutedBy h (reorderSource s.nu n) s.mem m := by
  induction n with
  | zero =>
    have hstart : s = { s with rk := 0 } := by rw [← hrk]
    exact ⟨s.mem, congrArg Host.Outcome.next hstart, reorderSource_zero s.nu ▸ .refl h s.mem⟩
  | succ n ih =>
    obtain ⟨m, hrun, hperm⟩ := ih (Nat.le_of_succ_le hn)
    have hlong' : m.longEnough h s.size = true := (hperm.lengths s.size).trans hlong
    obtain ⟨m', hstep, hswap⟩ := perform_reorder_permutes (s := { s with rk := n, mem := m }) hst hn hbuf hlong'
    refine ⟨m', ?_, reorderSource_comp_reorderSwap hn ▸ hperm.trans hswap⟩
    rw [List.replicate_succ', performAll_append, hrun, andThen_next, performAll_singleton, hstep]

/-- Settles O42: `N` steps have exchanged every pair, and no index from `N` on has a pair. -/
theorem reorderPassPermutes : Obligations.ReorderPassPermutes := by
  intro s h hst hrk hbuf hlong
  obtain ⟨m, hrun, hperm⟩ := reorderSteps_permute hst hrk hbuf hlong le_rfl
  refine ⟨_, hrun, rfl, fun p k hk => ?_, fun b hb => ?_⟩
  · exact (hperm.moved p k).trans (by rw [State.size, reorderSource_size hk])
  · by_cases hh : b.handle = h
    · obtain ⟨bh, p, i⟩ := b
      subst hh
      have hi : s.size ≤ i := hb.resolve_left (not_not_intro rfl)
      exact (hperm.moved p i).trans (by rw [reorderSource_of_size_le hi])
    · exact hperm.others b hh

end Sys2Proof.Machine
end

section
/-! PROOFS. The worker count that CONFIG takes from its hint, and SHUTDOWN during a transform (43_lifecycle.md R201,
R206). -/

namespace Sys2Proof.Machine

/-- The loop makes a further round only below `h`. -/
theorem doubleUntil_of_lt {h : Int} {t : Nat} (ht : (t : Int) < h) (fuel : Nat) :
    doubleUntil h (fuel + 1) t = doubleUntil h fuel (2 * t) := if_pos ht

theorem doubleUntil_of_le {h : Int} {t : Nat} (ht : h ≤ t) (fuel : Nat) : doubleUntil h fuel t = t := by
  cases fuel with
  | zero => rfl
  | succ fuel => exact if_neg (Int.not_lt_of_ge ht)

theorem doubleUntil_two_pow (h : Int) (fuel j : Nat) : ∃ k, j ≤ k ∧ doubleUntil h fuel (2 ^ j) = 2 ^ k := by
  induction fuel generalizing j with
  | zero => exact ⟨j, le_rfl, rfl⟩
  | succ fuel ih =>
    obtain hlt | hle := lt_or_ge ((2 ^ j : Nat) : Int) h
    · obtain ⟨k, hjk, hk⟩ := ih (j + 1)
      exact ⟨k, Nat.le_of_succ_le hjk, by rw [doubleUntil_of_lt hlt, ← Nat.pow_succ', hk]⟩
    · exact ⟨j, le_rfl, doubleUntil_of_le hle _⟩

/-- Each round raises `t` by at least 1, so `h - t` rounds are enough to reach `h`. -/
theorem le_doubleUntil {h : Int} {fuel t : Nat} (ht : 1 ≤ t) (hfuel : h ≤ t + fuel) : h ≤ doubleUntil h fuel t := by
  induction fuel generalizing t with
  | zero => simpa [doubleUntil] using hfuel
  | succ fuel ih =>
    obtain hlt | hle := lt_or_ge (t : Int) h
    · rw [doubleUntil_of_lt hlt]
      exact ih (by omega) (by omega)
    · rwa [doubleUntil_of_le hle]

/-- The loop passes no power of two that is at least `h`. -/
theorem doubleUntil_two_pow_le {h : Int} {j k : Nat} (hjk : j ≤ k) (hk : h ≤ ((2 ^ k : Nat) : Int)) (fuel : Nat) :
    doubleUntil h fuel (2 ^ j) ≤ 2 ^ k := by
  induction fuel generalizing j with
  | zero => exact Nat.pow_le_pow_right two_pos hjk
  | succ fuel ih =>
    obtain hlt | hle := lt_or_ge ((2 ^ j : Nat) : Int) h
    · have hnext : j < k := (Nat.pow_lt_pow_iff_right one_lt_two).mp (Int.ofNat_lt.mp (lt_of_lt_of_le hlt hk))
      rw [doubleUntil_of_lt hlt, ← Nat.pow_succ']
      exact ih hnext
    · rw [doubleUntil_of_le hle]
      exact Nat.pow_le_pow_right two_pos hjk

/-- Settles O12: the loop starts at `2 ^ 1`, stays at powers of two, and stops at the first that reaches the hint. -/
theorem ceilpow2IsTheSmallest : Obligations.Ceilpow2IsTheSmallest :=
  fun h => ⟨doubleUntil_two_pow h h.toNat 1, le_doubleUntil one_le_two (by omega),
    fun _ hk hle => doubleUntil_two_pow_le hk hle h.toNat⟩

theorem execShutdown_of_busy {s : State} (hst : s.st ≠ .unconf) (hbusy : s.busy = true) :
    execShutdown s = .fault .shutdownInFlight := by
  rw [execShutdown, if_neg hst, if_pos hbusy]

/-- Settles O32: the meaning of SHUTDOWN is `execShutdown`, which faults in this state. -/
theorem shutdownInFlightFaults : Obligations.ShutdownInFlightFaults :=
  fun _ hst hbusy => execShutdown_of_busy hst hbusy

end Sys2Proof.Machine
end

section
/-! PROOFS. The encoder and the decoder invert each other, and the decoder agrees with the opcode table (30_encoding.md
R90 to R102). -/

namespace Sys2Proof

theorem field_lt (w : Word) (hi lo : Nat) : field w hi lo < 2 ^ (hi + 1 - lo) := Nat.mod_lt _ (Nat.two_pow_pos _)

/-- A word with a known opcode is decoded by that opcode's format: one equation a row (R92 to R99). -/
theorem decode_config {w : Word} (h : field w 31 28 = 0x1) (hr : field w 22 16 = 0) :
    decode w = .instr (.config (field w 27 23) (sext16 (field w 15 0))) := by
  simp [decode, h, hr]

theorem decode_submit {w : Word} (h : field w 31 28 = 0x2) (hr : field w 27 24 = 0) :
    decode w = .instr (.submit (BitVec.ofNat 16 (field w 15 0)) (BitVec.ofNat 8 (field w 23 16))) := by
  simp [decode, h, hr]

theorem decode_isbusy {w : Word} (h : field w 31 28 = 0x3) (hr : field w 27 0 = 0) : decode w = .instr .isbusy := by
  simp [decode, h, hr]

theorem decode_shutdown {w : Word} (h : field w 31 28 = 0x4) (hr : field w 27 0 = 0) :
    decode w = .instr .shutdown := by
  simp [decode, h, hr]

theorem decode_strided {w : Word} (h : field w 31 28 = 0x8) (hr : field w 26 16 = 0) :
    decode w = .instr (.strided (field w 27 27 == 1) (BitVec.ofNat 16 (field w 15 0))) := by
  simp [decode, h, hr]

theorem decode_localRemainder {w : Word} (h : field w 31 28 = 0x9) (hr : field w 27 0 = 0) :
    decode w = .instr .localRemainder := by
  simp [decode, h, hr]

theorem decode_ack {w : Word} (h : field w 31 28 = 0xA) (hr : field w 27 16 = 0) :
    decode w = .instr (.ack (field w 15 0)) := by
  simp [decode, h, hr]

theorem decode_done {w : Word} (h : field w 31 28 = 0xC) (hr : field w 27 24 = 0) :
    decode w = .instr (.done (BitVec.ofNat 8 (field w 23 16)) (BitVec.ofNat 16 (field w 15 0))) := by
  simp [decode, h, hr]

theorem decode_rsp {w : Word} (h : field w 31 28 = 0xE) (hr : field w 27 9 = 0) :
    decode w = .instr (.rsp (field w 8 8 == 1) (field w 7 0)) := by
  simp [decode, h, hr]

/-- `sext_16` undoes the reduction modulo `2^16` of a 16-bit signed value (R92). -/
theorem sext16_emod {h : Int} (hlo : -32768 ≤ h) (hhi : h ≤ 32767) : sext16 (h % 65536).toNat = h := by
  unfold sext16
  split <;> omega

theorem sext16_bounds {v : Nat} (hv : v < 65536) : -32768 ≤ sext16 v ∧ sext16 v ≤ 32767 := by
  unfold sext16
  split <;> omega

theorem sext16_emod_toNat {v : Nat} (hv : v < 65536) : (sext16 v % 65536).toNat = v := by
  unfold sext16
  split <;> omega

@[simp] theorem bitOf_beq_one (b : Bool) : (bitOf b == 1) = b := by cases b <;> rfl

theorem bitOf_le_one (b : Bool) : bitOf b ≤ 1 := by cases b <;> decide

theorem bitOf_of_lt_two {n : Nat} (h : n < 2) : bitOf (n == 1) = n := by
  obtain rfl | rfl : n = 0 ∨ n = 1 := by omega
  all_goals rfl

/-- Settles O1: the opcode and the reserved bits of an encoding choose its format (`ReservedZero`), and each operand is
read back from the field it was put into. -/
theorem decodeOfEncode : Obligations.DecodeOfEncode := by
  intro i hwf
  cases i with
  | config nu hint =>
    obtain ⟨hop, hres⟩ := Laws.ReservedZero.config nu hint hwf
    simp only [Instr.wf, Bool.and_eq_true, decide_eq_true_eq] at hwf
    have hnu : field (encode (.config nu hint)) 27 23 = nu := by
      simp only [field, encode, BitVec.toNat_ofNat]; omega
    have hhint : field (encode (.config nu hint)) 15 0 = (hint % 65536).toNat := by
      simp only [field, encode, BitVec.toNat_ofNat]; omega
    rw [decode_config hop hres, hnu, hhint, sext16_emod hwf.1.2 hwf.2]
  | submit buf cb =>
    obtain ⟨hop, hres⟩ := Laws.ReservedZero.submit buf cb hwf
    have hb := buf.isLt
    have hc := cb.isLt
    have hbuf : field (encode (.submit buf cb)) 15 0 = buf.toNat := by
      simp only [field, encode, BitVec.toNat_ofNat]; omega
    have hcb : field (encode (.submit buf cb)) 23 16 = cb.toNat := by
      simp only [field, encode, BitVec.toNat_ofNat]; omega
    rw [decode_submit hop hres, hbuf, hcb, BitVec.ofNat_toNat, BitVec.ofNat_toNat, BitVec.setWidth_eq, BitVec.setWidth_eq]
  | isbusy => decide
  | shutdown => decide
  | strided init buf =>
    obtain ⟨hop, hres⟩ := Laws.ReservedZero.strided init buf hwf
    have hb := buf.isLt
    have hi := bitOf_le_one init
    have hbuf : field (encode (.strided init buf)) 15 0 = buf.toNat := by
      simp only [field, encode, BitVec.toNat_ofNat]; omega
    have hinit : field (encode (.strided init buf)) 27 27 = bitOf init := by
      simp only [field, encode, BitVec.toNat_ofNat]; omega
    rw [decode_strided hop hres, hbuf, hinit, bitOf_beq_one, BitVec.ofNat_toNat, BitVec.setWidth_eq]
  | localRemainder => decide
  | ack id =>
    obtain ⟨hop, hres⟩ := Laws.ReservedZero.ack id hwf
    simp only [Instr.wf, decide_eq_true_eq] at hwf
    have hid : field (encode (.ack id)) 15 0 = id := by
      simp only [field, encode, BitVec.toNat_ofNat]; omega
    rw [decode_ack hop hres, hid]
  | done cb buf =>
    obtain ⟨hop, hres⟩ := Laws.ReservedZero.done cb buf hwf
    have hb := buf.isLt
    have hc := cb.isLt
    have hbuf : field (encode (.done cb buf)) 15 0 = buf.toNat := by
      simp only [field, encode, BitVec.toNat_ofNat]; omega
    have hcb : field (encode (.done cb buf)) 23 16 = cb.toNat := by
      simp only [field, encode, BitVec.toNat_ofNat]; omega
    rw [decode_done hop hres, hbuf, hcb, BitVec.ofNat_toNat, BitVec.ofNat_toNat, BitVec.setWidth_eq, BitVec.setWidth_eq]
  | rsp busy status =>
    obtain ⟨hop, hres⟩ := Laws.ReservedZero.rsp busy status hwf
    simp only [Instr.wf, decide_eq_true_eq] at hwf
    have hb := bitOf_le_one busy
    have hbusy : field (encode (.rsp busy status)) 8 8 = bitOf busy := by
      simp only [field, encode, BitVec.toNat_ofNat]; omega
    have hstatus : field (encode (.rsp busy status)) 7 0 = status := by
      simp only [field, encode, BitVec.toNat_ofNat]; omega
    rw [decode_rsp hop hres, hbusy, hstatus, bitOf_beq_one]

/-- Settles O2: the opcode, the reserved bits and the operand fields of a word add up to the word. -/
theorem encodeOfDecode : Obligations.EncodeOfDecode := by
  intro w i hd
  obtain ⟨hop, hres⟩ := opcode_and_reserved_of_decode hd
  have hw := w.isLt
  have hlow := field_lt w 15 0
  cases i with
  | config nu hint =>
    obtain ⟨rfl, rfl⟩ : field w 27 23 = nu ∧ sext16 (field w 15 0) = hint := by
      simpa [decode_config hop hres] using hd
    have hnu := field_lt w 27 23
    have hhint := sext16_bounds hlow
    refine ⟨by simp only [Instr.wf, Bool.and_eq_true, decide_eq_true_eq]; omega, BitVec.eq_of_toNat_eq ?_⟩
    simp only [encode, sext16_emod_toNat hlow, BitVec.toNat_ofNat]
    simp only [field, Instr.opcode, Instr.reserved] at hop hres ⊢
    omega
  | submit buf cb =>
    obtain ⟨rfl, rfl⟩ : BitVec.ofNat 16 (field w 15 0) = buf ∧ BitVec.ofNat 8 (field w 23 16) = cb := by
      simpa [decode_submit hop hres] using hd
    refine ⟨rfl, BitVec.eq_of_toNat_eq ?_⟩
    simp only [field, Instr.opcode, Instr.reserved, encode, BitVec.toNat_ofNat] at hop hres ⊢
    omega
  | isbusy | shutdown | localRemainder =>
    refine ⟨rfl, BitVec.eq_of_toNat_eq ?_⟩
    simp only [field, Instr.opcode, Instr.reserved, encode, BitVec.toNat_ofNat] at hop hres ⊢
    omega
  | strided init buf =>
    obtain ⟨rfl, rfl⟩ : (field w 27 27 == 1) = init ∧ BitVec.ofNat 16 (field w 15 0) = buf := by
      simpa [decode_strided hop hres] using hd
    refine ⟨rfl, BitVec.eq_of_toNat_eq ?_⟩
    rw [encode, bitOf_of_lt_two (field_lt w 27 27)]
    simp only [field, Instr.opcode, Instr.reserved, BitVec.toNat_ofNat] at hop hres ⊢
    omega
  | ack id =>
    obtain rfl : field w 15 0 = id := by simpa [decode_ack hop hres] using hd
    refine ⟨by simpa [Instr.wf] using hlow, BitVec.eq_of_toNat_eq ?_⟩
    simp only [field, Instr.opcode, Instr.reserved, encode, BitVec.toNat_ofNat] at hop hres ⊢
    omega
  | done cb buf =>
    obtain ⟨rfl, rfl⟩ : BitVec.ofNat 8 (field w 23 16) = cb ∧ BitVec.ofNat 16 (field w 15 0) = buf := by
      simpa [decode_done hop hres] using hd
    refine ⟨rfl, BitVec.eq_of_toNat_eq ?_⟩
    simp only [field, Instr.opcode, Instr.reserved, encode, BitVec.toNat_ofNat] at hop hres ⊢
    omega
  | rsp busy status =>
    obtain ⟨rfl, rfl⟩ : (field w 8 8 == 1) = busy ∧ field w 7 0 = status := by
      simpa [decode_rsp hop hres] using hd
    refine ⟨by simpa [Instr.wf] using field_lt w 7 0, BitVec.eq_of_toNat_eq ?_⟩
    rw [encode, bitOf_of_lt_two (field_lt w 8 8)]
    simp only [field, Instr.opcode, Instr.reserved, BitVec.toNat_ofNat] at hop hres ⊢
    omega

/-! ### The opcode table -/

/-- The mask that leaves bits `hi` down to `lo` of a word. -/
def fieldMask (hi lo : Nat) : Word := BitVec.ofNat 32 ((2 ^ (hi + 1 - lo) - 1) * 2 ^ lo)

/-- What the mask of a field leaves is the field, in its place. -/
theorem toNat_and_fieldMask (w : Word) {hi lo : Nat} (hlo : lo ≤ hi + 1) (hhi : hi < 32) :
    (w &&& fieldMask hi lo).toNat = field w hi lo * 2 ^ lo := by
  have hsplit : 2 ^ (hi + 1 - lo) * 2 ^ lo ≤ 2 ^ 32 := by
    rw [← Nat.pow_add]
    exact Nat.pow_le_pow_right two_pos (by omega)
  have hmask : (fieldMask hi lo).toNat = (2 ^ (hi + 1 - lo) - 1) * 2 ^ lo := by
    have hone : 1 * 2 ^ lo ≤ 2 ^ (hi + 1 - lo) * 2 ^ lo := Nat.mul_le_mul_right _ Nat.one_le_two_pow
    have hpos : 0 < 2 ^ lo := Nat.two_pow_pos lo
    rw [fieldMask, BitVec.toNat_ofNat, Nat.mod_eq_of_lt]
    rw [Nat.sub_mul]
    omega
  rw [BitVec.toNat_and, hmask, field]
  refine Nat.eq_of_testBit_eq fun b => ?_
  rw [Nat.testBit_and, Nat.testBit_mul_two_pow, Nat.testBit_mul_two_pow, Nat.testBit_two_pow_sub_one,
    Nat.testBit_mod_two_pow, Nat.testBit_div_two_pow]
  by_cases hb : lo ≤ b
  · simp [hb, Nat.sub_add_cancel hb, Bool.and_comm]
  · simp [hb]

/-- A mask of two fields accepts the words that hold the pattern in the first and 0 in the second. -/
theorem and_or_eq_iff {w m n p : Word} (hm : p &&& m = p) (hn : p &&& n = 0#32) :
    w &&& (m ||| n) = p ↔ w &&& m = p ∧ w &&& n = 0#32 := by
  have hm' : (m ||| n) &&& m = m := by ext i hi; simp; tauto
  have hn' : (m ||| n) &&& n = n := by ext i hi; simp; tauto
  constructor
  · intro h
    exact ⟨by rw [← hm, ← h, BitVec.and_assoc, hm'], by rw [← hn, ← h, BitVec.and_assoc, hn']⟩
  · rintro ⟨h1, h2⟩
    rw [BitVec.and_or_distrib_left, h1, h2, BitVec.or_zero]

theorem and_fieldMask_eq_iff {w p : Word} {hi lo v : Nat} (hlo : lo ≤ hi + 1) (hhi : hi < 32)
    (hp : p.toNat = v * 2 ^ lo) : w &&& fieldMask hi lo = p ↔ field w hi lo = v := by
  rw [← BitVec.toNat_inj, toNat_and_fieldMask w hlo hhi, hp, Nat.mul_left_inj (Nat.two_pow_pos lo).ne']

/-- A row of the table as R91 to R101 give it: mnemonic, opcode, and the ends of the reserved field. -/
structure RowFormat where
  mnemonic : String
  opcode : Nat
  high : Nat
  low : Nat

/-- The row's `match` and `mask` numbers. -/
def RowFormat.row (f : RowFormat) : OpcodeRow :=
  ⟨f.mnemonic, BitVec.ofNat 32 (f.opcode * 2 ^ 28), fieldMask 31 28 ||| fieldMask f.high f.low⟩

/-- The word has the opcode of the row, and its reserved bits are 0. -/
def RowFormat.fits (f : RowFormat) (w : Word) : Bool := decide (field w 31 28 = f.opcode ∧ field w f.high f.low = 0)

def rowFormats : List RowFormat :=
  [⟨"CONFIG", 0x1, 22, 16⟩, ⟨"SUBMIT", 0x2, 27, 24⟩, ⟨"ISBUSY", 0x3, 27, 0⟩, ⟨"SHUTDOWN", 0x4, 27, 0⟩,
    ⟨"STRIDED", 0x8, 26, 16⟩, ⟨"LOCAL", 0x9, 27, 0⟩, ⟨"ACK", 0xA, 27, 16⟩, ⟨"DONE", 0xC, 27, 24⟩, ⟨"RSP", 0xE, 27, 9⟩]

theorem opcodeRows_eq_map : opcodeRows = rowFormats.map RowFormat.row := by decide

/-- In each row the reserved field lies below the opcode. -/
theorem rowFormats_bounds : ∀ f ∈ rowFormats, f.opcode < 16 ∧ f.low ≤ f.high + 1 ∧ f.high < 32 ∧
    f.row.pattern &&& fieldMask 31 28 = f.row.pattern ∧ f.row.pattern &&& fieldMask f.high f.low = 0#32 := by decide

theorem RowFormat.accepts_row {f : RowFormat} (hf : f ∈ rowFormats) (w : Word) : f.row.accepts w = f.fits w := by
  obtain ⟨hop, hlo, hhi, hin, hout⟩ := rowFormats_bounds f hf
  have hpat : f.row.pattern.toNat = f.opcode * 2 ^ 28 := by
    simp only [RowFormat.row, BitVec.toNat_ofNat]; omega
  have hzero : (0#32).toNat = 0 * 2 ^ f.low := by simp
  have hboth : w &&& f.row.mask = f.row.pattern ↔ field w 31 28 = f.opcode ∧ field w f.high f.low = 0 := by
    rw [← and_fieldMask_eq_iff (by decide) (by decide) hpat, ← and_fieldMask_eq_iff hlo hhi hzero]
    exact and_or_eq_iff hin hout
  rw [Bool.eq_iff_iff, OpcodeRow.accepts, beq_iff_eq, hboth, RowFormat.fits, decide_eq_true_eq]

/-- The rows that accept a word are those whose opcode and reserved bits it has. -/
theorem mnemonics_accepting (w : Word) :
    (opcodeRows.filter (fun r => r.accepts w)).map OpcodeRow.mnemonic =
      (rowFormats.filter (fun f => f.fits w)).map RowFormat.mnemonic := by
  rw [opcodeRows_eq_map, List.filter_map, List.map_map]
  exact congrArg _ (List.filter_congr fun f hf => f.accepts_row hf w)

/-- Settles O3: the nine opcodes differ, so a word fits at most one row, and the decoder's tests are those of the rows. -/
theorem decoderAgreesWithTable : Obligations.DecoderAgreesWithTable := by
  intro w
  rw [mnemonics_accepting]
  unfold decode
  split_ifs <;> simp [rowFormats, List.filter, RowFormat.fits, *, Instr.mnemonic]

/-- Settles O4: the fifteen words are decoded by evaluation. -/
theorem specWordsDecode : Obligations.SpecWordsDecode := by
  unfold Obligations.SpecWordsDecode
  decide

end Sys2Proof
end

section
/-! PROOFS. Which worker visits which first leg, and the LUT index of a first leg (20_memory.md R73, R74; 40_lut_bitrev.md
R126, R127; 41_worker.md R150, R153). -/

namespace Sys2Proof.Machine

/-- Bit `m` of an index is clear exactly in the lower half of its group of `2 * 2^m`. -/
theorem testBit_eq_false_iff_mod_lt {k m : Nat} : k.testBit m = false ↔ k % (2 * 2 ^ m) < 2 ^ m := by
  have hpos : 0 < 2 ^ m := Nat.two_pow_pos m
  have hmod : k % (2 * 2 ^ m) = k % 2 ^ m + 2 ^ m * (k / 2 ^ m % 2) := by rw [Nat.mul_comm, Nat.mod_mul]
  have hlow : k % 2 ^ m < 2 ^ m := Nat.mod_lt _ hpos
  rw [Nat.testBit_eq_decide_div_mod_eq, decide_eq_false_iff_not, hmod]
  obtain hbit | hbit := Nat.mod_two_eq_zero_or_one (k / 2 ^ m) <;> rw [hbit] <;> omega

/-- The second leg of a butterfly lies in the same group as the first, so below the same bound. -/
theorem second_leg_lt {k n bound : Nat} (hk : k < bound) (hdvd : 2 * n ∣ bound) (hfirst : k % (2 * n) < n) :
    k + n < bound := by
  obtain ⟨groups, rfl⟩ := hdvd
  have hgroup : k / (2 * n) < groups := Nat.div_lt_of_lt_mul hk
  have hnext : 2 * n * (k / (2 * n) + 1) ≤ 2 * n * groups := Nat.mul_le_mul_left _ hgroup
  have hdiv := Nat.div_add_mod k (2 * n)
  rw [Nat.mul_add, Nat.mul_one] at hnext
  omega

/-- A group of span `n` is the product of its number and its length, and an offset below `n`. -/
theorem group_offset {g n j : Nat} (hj : j < n) :
    (g * (2 * n) + j) / (2 * n) = g ∧ (g * (2 * n) + j) % (2 * n) = j := by
  have hlt : j < 2 * n := by omega
  constructor
  · rw [Nat.mul_comm, Nat.mul_add_div (by omega), Nat.div_eq_of_lt hlt, Nat.add_zero]
  · rw [Nat.mul_comm, Nat.mul_add_mod, Nat.mod_eq_of_lt hlt]

theorem two_mul_two_pow_dvd {m nu : Nat} (h : m < nu) : 2 * 2 ^ m ∣ 2 ^ nu := by
  rw [← Nat.pow_succ']
  exact pow_dvd_pow 2 h

/-! ### STRIDED -/

/-- Worker `w` visits the first legs whose offset in the group is `w` modulo the number of workers (R150). -/
theorem mem_stridedLegs_iff {size nt n w k : Nat} (hw : w < nt) (hdvd : 2 * n ∣ size) (hn : 0 < n) :
    k ∈ stridedLegs size nt n w ↔ k < size ∧ k % (2 * n) < n ∧ k % (2 * n) % nt = w := by
  obtain ⟨groups, rfl⟩ := hdvd
  have hgroups : 2 * n * groups / (2 * n) = groups := Nat.mul_div_cancel_left _ (by omega)
  rw [mem_stridedLegs (by omega), hgroups]
  constructor
  · rintro ⟨g, m, hg, hj, rfl⟩
    obtain ⟨hdiv, hmod⟩ := group_offset (g := g) hj
    refine ⟨?_, by rw [hmod]; exact hj, by rw [hmod, Nat.add_mul_mod_self_right, Nat.mod_eq_of_lt hw]⟩
    rw [Nat.mul_comm (2 * n) groups, ← Nat.div_lt_iff_lt_mul (by omega), hdiv]
    exact hg
  · rintro ⟨hk, hfirst, rfl⟩
    have hoffset : k % (2 * n) % nt + k % (2 * n) / nt * nt = k % (2 * n) := Nat.mod_add_div' _ _
    refine ⟨k / (2 * n), k % (2 * n) / nt, Nat.div_lt_of_lt_mul hk, by omega, ?_⟩
    rw [hoffset, Nat.div_add_mod']

theorem nodup_strideOffsets {w nt n : Nat} (hnt : 0 < nt) : (strideOffsets w nt n).Nodup := by
  refine List.Nodup.map (fun a b h => ?_) List.nodup_range
  exact Nat.eq_of_mul_eq_mul_right hnt (Nat.add_left_cancel h)

/-- No first leg is visited twice: offsets differ inside a group, and groups do not meet. -/
theorem nodup_stridedLegs {size nt n w : Nat} (hnt : 0 < nt) : (stridedLegs size nt n w).Nodup := by
  refine List.nodup_flatMap.mpr ⟨fun g _ => (nodup_strideOffsets hnt).map (fun a b h => Nat.add_left_cancel h), ?_⟩
  refine List.nodup_range.imp fun {g g'} hne => ?_
  simp only [Function.onFun, List.disjoint_left, List.mem_map, mem_strideOffsets hnt]
  rintro _ ⟨j, ⟨m, rfl, hj⟩, rfl⟩ ⟨j', ⟨m', rfl, hj'⟩, heq⟩
  exact hne ((group_offset hj).1.symm.trans ((congrArg (· / (2 * n)) heq).symm.trans (group_offset hj').1))

theorem nt_pos_of_workerCountOk {nu nt : Nat} (h : workerCountOk nu nt = true) : 0 < nt := by
  have h2 := (workerCountOk_iff.mp h).1
  omega

/-- Settles O23: a first leg belongs to the worker its offset names modulo `NT`, and to no other. -/
theorem stridedRoundIsAPartition : Obligations.StridedRoundIsAPartition := by
  intro nu nt m hcount hm
  have hnt := nt_pos_of_workerCountOk hcount
  have hdvd := two_mul_two_pow_dvd hm
  have hmem := fun {w k : Nat} (hw : w < nt) => mem_stridedLegs_iff (k := k) hw hdvd (Nat.two_pow_pos m)
  refine ⟨fun w k hw hk => ?_, fun w _ => nodup_stridedLegs hnt, fun k hk hbit => ?_, fun k l hk hl hne => ?_⟩
  · obtain ⟨hlt, hfirst, -⟩ := (hmem hw).mp hk
    exact ⟨second_leg_lt hlt hdvd hfirst, testBit_eq_false_iff_mod_lt.mpr hfirst⟩
  · have hfirst := testBit_eq_false_iff_mod_lt.mp hbit
    have hw : k % (2 * 2 ^ m) % nt < nt := Nat.mod_lt _ hnt
    exact ⟨_, hw, (hmem hw).mpr ⟨hk, hfirst, rfl⟩, fun v hv hkv => ((hmem hv).mp hkv).2.2.symm⟩
  · refine ⟨?_, fun h => hne (Nat.add_right_cancel h)⟩
    rintro rfl
    rw [Nat.add_comm, Nat.testBit_two_pow_add_eq, hl] at hk
    exact absurd hk (by decide)

/-! ### LOCAL -/

/-- The block of worker `w` is the `w`-th of the blocks of `size` elements; it holds whole groups, and all their first
legs are visited (R153). -/
theorem mem_blockLegs_iff {size n w k : Nat} (hdvd : 2 * n ∣ size) (hn : 0 < n) (hsize : 0 < size) :
    k ∈ blockLegs (w * size) size n ↔ k / size = w ∧ k % (2 * n) < n := by
  obtain ⟨groups, rfl⟩ := hdvd
  have hgroups : 0 < groups := Nat.pos_of_ne_zero (fun h => by simp [h] at hsize)
  have hblock : ∀ g t, w * (2 * n * groups) + g * (2 * n) + t = (w * groups + g) * (2 * n) + t := fun g t => by ring
  have hquot : ∀ g, g < groups → (w * groups + g) / groups = w := fun g hg => by
    rw [Nat.mul_comm, Nat.mul_add_div hgroups, Nat.div_eq_of_lt hg, Nat.add_zero]
  rw [mem_blockLegs hn, ← Nat.div_div_eq_div_mul]
  constructor
  · rintro ⟨g, t, hg, ht, rfl⟩
    have hlt : g < groups := Nat.lt_of_mul_lt_mul_left (by rwa [Nat.mul_comm (2 * n) g])
    obtain ⟨hdiv, hmod⟩ := group_offset (g := w * groups + g) ht
    rw [hblock, hdiv, hmod, hquot g hlt]
    exact ⟨rfl, ht⟩
  · rintro ⟨rfl, hfirst⟩
    have hlt : k / (2 * n) % groups < groups := Nat.mod_lt _ hgroups
    refine ⟨k / (2 * n) % groups, k % (2 * n), ?_, hfirst, ?_⟩
    · rw [Nat.mul_comm]
      exact Nat.mul_lt_mul_of_pos_left hlt (by omega)
    · rw [hblock, Nat.div_add_mod', Nat.div_add_mod']

theorem nodup_blockLegs {base size n : Nat} : (blockLegs base size n).Nodup := by
  refine List.nodup_flatMap.mpr ⟨fun g _ => List.nodup_range.map (fun a b h => Nat.add_left_cancel h), ?_⟩
  refine List.nodup_range.imp fun {g g'} hne => ?_
  simp only [Function.onFun, List.disjoint_left, List.mem_map, List.mem_range]
  rintro _ ⟨j, hj, rfl⟩ ⟨j', hj', heq⟩
  have hsame : g' * (2 * n) + j' = g * (2 * n) + j := by omega
  exact hne ((group_offset hj).1.symm.trans ((congrArg (· / (2 * n)) hsame).symm.trans (group_offset hj').1))

/-- A legal worker count divides `N`, and leaves a block that is a power of two (00_scope.md R9). -/
theorem block_eq_two_pow {nu nt : Nat} (h : workerCountOk nu nt = true) :
    Nat.log2 nt < nu ∧ 2 ^ nu / nt = 2 ^ (nu - Nat.log2 nt) ∧ nt * (2 ^ nu / nt) = 2 ^ nu := by
  obtain ⟨h2, hpow, hhalf⟩ := workerCountOk_iff.mp h
  have hlt : Nat.log2 nt < nu := by
    refine (Nat.pow_lt_pow_iff_right one_lt_two).mp ?_
    rw [← hpow]
    omega
  have hdiv : 2 ^ nu / nt = 2 ^ (nu - Nat.log2 nt) := by
    conv_lhs => rw [hpow]
    exact Nat.pow_div hlt.le two_pos
  refine ⟨hlt, hdiv, ?_⟩
  calc nt * (2 ^ nu / nt) = 2 ^ Nat.log2 nt * 2 ^ (nu - Nat.log2 nt) := by rw [hdiv, ← hpow]
    _ = 2 ^ nu := by rw [← Nat.pow_add, Nat.add_sub_cancel' hlt.le]

/-- Settles O27: a first leg belongs to the worker in whose block it lies. -/
theorem localBlocksAreAPartition : Obligations.LocalBlocksAreAPartition := by
  intro nu nt q hcount hfits
  obtain ⟨-, hblock, htotal⟩ := block_eq_two_pow hcount
  have hdvd : 2 * 2 ^ q ∣ 2 ^ nu / nt := by
    rw [hblock] at hfits ⊢
    exact two_mul_two_pow_dvd ((Nat.pow_le_pow_iff_right one_lt_two).mp hfits)
  have hsize : 0 < 2 ^ nu / nt := lt_of_lt_of_le (Nat.two_pow_pos _) hfits
  have hmem := fun {w k : Nat} => mem_blockLegs_iff (w := w) (k := k) hdvd (Nat.two_pow_pos q) hsize
  refine ⟨fun w k _ hk => ?_, fun w _ => nodup_blockLegs, fun k hk hbit => ?_⟩
  · obtain ⟨rfl, hfirst⟩ := hmem.mp hk
    have hlt : k < (k / (2 ^ nu / nt) + 1) * (2 ^ nu / nt) := Nat.lt_mul_of_div_lt (Nat.lt_succ_self _) hsize
    exact ⟨Nat.div_mul_le_self _ _, second_leg_lt hlt (hdvd.mul_left _) hfirst,
      testBit_eq_false_iff_mod_lt.mpr hfirst⟩
  · have hfirst := testBit_eq_false_iff_mod_lt.mp hbit
    have hw : k / (2 ^ nu / nt) < nt := Nat.div_lt_of_lt_mul (by rwa [Nat.mul_comm, htotal])
    exact ⟨_, hw, hmem.mpr ⟨rfl, hfirst⟩, fun v _ hkv => (hmem.mp hkv).1.symm⟩

/-! ### The LUT index -/

/-- Reversing an `a`-bit number in a field `b` bits wider puts its reversal `b` bits up. -/
theorem bitrev_add {g a : Nat} (hg : g < 2 ^ a) (b : Nat) : bitrev g (a + b) = 2 ^ b * bitrev g a := by
  refine Nat.eq_of_testBit_eq fun c => ?_
  rw [testBit_bitrev, Nat.testBit_two_pow_mul, testBit_bitrev]
  by_cases hc : b ≤ c
  · have hpos : a + b - 1 - c = a - 1 - (c - b) := by omega
    have hlt : c < a + b ↔ c - b < a := by omega
    simp [hc, hpos, hlt]
  · have hhigh : g < 2 ^ (a + b - 1 - c) := lt_of_lt_of_le hg (Nat.pow_le_pow_right two_pos (by omega))
    simp [hc, Nat.testBit_lt_two_pow hhigh]

/-- Settles O14: the shifted index of a first leg is even, its half being the group number. -/
theorem twiddleIndexInFirstHalf : Obligations.TwiddleIndexInFirstHalf := by
  intro nu nu1 k hnu1 hk hbit
  obtain ⟨nu, rfl⟩ : ∃ n, nu = n + 1 := ⟨nu - 1, by omega⟩
  have heven : k / 2 ^ nu1 = 2 * (k / (2 * 2 ^ nu1)) := by
    rw [Nat.testBit_eq_decide_div_mod_eq, decide_eq_false_iff_not] at hbit
    rw [Nat.mul_comm 2 (2 ^ nu1), ← Nat.div_div_eq_div_mul]
    omega
  have hindex : twIndex (nu + 1) k nu1 = bitrev (k / (2 * 2 ^ nu1)) nu := by
    rw [twIndex, shiftRight_ofNat, heven, bitrev_two_mul]
  have hgroup : k / (2 * 2 ^ nu1) < 2 ^ (nu - nu1) := by
    refine Nat.div_lt_of_lt_mul ?_
    rwa [← Nat.pow_succ', ← Nat.pow_add, show nu1 + 1 + (nu - nu1) = nu + 1 by omega]
  refine ⟨hindex, ?_, ?_⟩
  · rw [hindex, show nu + 1 - nu1 - 1 = nu - nu1 by omega, ← bitrev_add hgroup nu1, Nat.sub_add_cancel (by omega)]
  · rw [hindex, Nat.pow_succ, Nat.mul_div_cancel _ two_pos]
    exact bitrev_lt _ _

end Sys2Proof.Machine
end

section
/-! PROOFS. What each move does, one equation a move, and what a scheduled step does (41_worker.md R148; 42_coordinator.md
R170, R177, R182, R184, R185). -/

namespace Sys2Proof.Machine

/-- A message of its port is executed. -/
theorem deliver_message {p : Port} {w : Word} {i : Instr} (hd : decode w = .instr i) (hp : i.port = p) (s : State) :
    deliver p w s = exec i s := by
  simp [deliver, hd, hp]

theorem decode_encode {i : Instr} (h : i.wf = true) : decode (encode i) = .instr i := decodeOfEncode i h

theorem deliver_encode {p : Port} {i : Instr} (hwf : i.wf = true) (hp : i.port = p) (s : State) :
    deliver p (encode i) s = exec i s :=
  deliver_message (decode_encode hwf) hp s

/-- Worker `w` has taken the first word off its channel, `cs` being left. -/
def State.takeCmd (s : State) (w : Nat) (cs : List Word) : State := { s.setCmd w cs with acting := w }

section
variable {s : State}

theorem perform_host_word {w : Word} {q : List HostAct} (hq : s.hostq = .word w :: q) :
    perform .host s = deliver .hostCommand w { s with hostq := q } := by
  simp [perform, enabled, hostEnabled, hq, act, fetch, Move.isReceive, portOf, takeOff]

theorem perform_host_wait {x : Word} {e : List Word} {q : List HostAct} (hq : s.hostq = .waitDone :: q)
    (he : s.evq = x :: e) : perform .host s = deliver .hostEvent x { s with hostq := q, evq := e } := by
  simp [perform, enabled, hostEnabled, hq, he, act, fetch, Move.isReceive, portOf, takeOff]

theorem perform_host_bind {h : Handle} {b : Buffer} {q : List HostAct} (hq : s.hostq = .bind h b :: q) :
    perform .host s = hostBind h b { s with hostq := q } := by
  simp [perform, enabled, hostEnabled, hq, act, fetch, wordless, hostAccess, takeOff]

theorem perform_host_write {a : Addr} {v : Sample} {q : List HostAct} (hq : s.hostq = .write a v :: q) :
    perform .host s = hostWrite a v { s with hostq := q } := by
  simp [perform, enabled, hostEnabled, hq, act, fetch, wordless, hostAccess, takeOff]

theorem perform_host_read {a : Addr} {q : List HostAct} (hq : s.hostq = .read a :: q) :
    perform .host s = hostRead a { s with hostq := q } := by
  simp [perform, enabled, hostEnabled, hq, act, fetch, wordless, hostAccess, takeOff]

/-- A worker can take a command: it is one of the engine's, halted, and a word waits. -/
theorem enabled_command_iff {w : Nat} :
    enabled (.command w) s = true ↔ w < s.nt ∧ (s.worker w).run = .halted ∧ ∃ c cs, s.cmdAt w = c :: cs := by
  cases hc : s.cmdAt w <;> simp [enabled, hc]

theorem enabled_work_iff {w : Nat} :
    enabled (.work w) s = true ↔ w < s.nt ∧ (s.worker w).run = .running ∧ ∃ it l, (s.worker w).todo = it :: l := by
  cases hl : (s.worker w).todo <;> simp [enabled, hl]

theorem enabled_report_iff {w : Nat} :
    enabled (.report w) s = true ↔ w < s.nt ∧ (s.worker w).run = .running ∧ (s.worker w).todo = [] := by
  cases hl : (s.worker w).todo <;> simp [enabled, hl]

theorem perform_command {w : Nat} {c : Word} {cs : List Word} (hw : w < s.nt) (hrun : (s.worker w).run = .halted)
    (hc : s.cmdAt w = c :: cs) : perform (.command w) s = deliver .workerCommand c (s.takeCmd w cs) := by
  rw [perform_enabled (enabled_command_iff.mpr ⟨hw, hrun, c, cs, hc⟩)]
  simp [act, fetch, hc, Move.isReceive, portOf, takeOff, State.takeCmd]

theorem perform_receive {w : Nat} {c : Word} {cs : List Word} (hw : w < s.nt) (hrun : (s.worker w).run = .halted)
    (hc : s.cmdAt w = c :: cs) : perform (.receive w) s = receiveOnly c (s.takeCmd w cs) := by
  have henabled : enabled (.receive w) s = true := enabled_command_iff.mpr ⟨hw, hrun, c, cs, hc⟩
  rw [perform_enabled henabled]
  simp [act, fetch, hc, Move.isReceive, takeOff, State.takeCmd]

theorem perform_work {w : Nat} {it : Work} {l : List Work} (hw : w < s.nt) (hrun : (s.worker w).run = .running)
    (hl : (s.worker w).todo = it :: l) : perform (.work w) s = doWork w it (s.setTodo w l) := by
  rw [perform_enabled (enabled_work_iff.mpr ⟨hw, hrun, it, l, hl⟩)]
  simp [act, fetch, wordless, workStep, hl]

theorem perform_report {w : Nat} (hw : w < s.nt) (hrun : (s.worker w).run = .running) (hl : (s.worker w).todo = []) :
    perform (.report w) s = .next (s.sendAck w) := by
  rw [perform_enabled (enabled_report_iff.mpr ⟨hw, hrun, hl⟩)]
  simp [act, fetch, wordless]

theorem perform_collect {n : Nat} {x : Word} (hx : s.ackq[n]? = some x) :
    perform (.collect n) s = deliver .report x { s with ackq := s.ackq.eraseIdx n } := by
  have hn : n < s.ackq.length := (List.getElem?_eq_some_iff.mp hx).1
  have henabled : enabled (.collect n) s = true := decide_eq_true hn
  simp only [perform_enabled henabled, act, fetch, hx, Move.isReceive, portOf, takeOff]
  rfl

theorem perform_notify (hst : s.st = .reord) (hrk : s.rk = s.size) (hn : s.notified = false) :
    perform .notify s = notify s := by
  simp [perform, enabled, hst, hrk, hn, act, fetch, wordless]

theorem perform_toIdle (hst : s.st = .reord) (hn : s.notified = true) : perform .toIdle s = .next (toIdle s) := by
  simp [perform, enabled, hst, hn, act, fetch, wordless]

theorem perform_response {x : Word} (hx : s.rsp = some x) :
    perform .response s = deliver .hostResponse x { s with rsp := none } := by
  simp [perform, enabled, hx, act, fetch, Move.isReceive, portOf, takeOff]

/-- A scheduled step is its move. -/
theorem step_scheduled {m : Move} {ms : List Move} (hs : s.sched = m :: ms) :
    step s = perform m { s with sched := ms } := by
  simp [step, advance, hs]

end

/-- Settles O5: the word is a message of its port, so it is neither stray nor only received. -/
theorem stepRunsDecodedMessage : Obligations.StepRunsDecodedMessage :=
  fun _ _ _ _ _ hs he hf hd hp hr => step_exec hs he hf hd hp hr

theorem tableWord_toNat (w : Word) : tableWord 32 w.toNat = w := by
  apply BitVec.eq_of_toNat_eq
  have hw := w.isLt
  rw [tableWord, BitVec.toNat_ofNat]
  omega

/-- The opcode of a message names its port (R101). -/
theorem portOfWord_eq_port {w : Word} {i : Instr} (hd : decode w = .instr i) : portOfWord w = i.port := by
  have hop := (opcode_and_reserved_of_decode hd).1
  cases i <;> simp [portOfWord, hop, Instr.opcode, Instr.port]

theorem withFetchWord_eq {w : Word} {i : Instr} (hd : decode w = .instr i) (s : State) :
    s.withFetchWord 32 w.toNat = placeWord i.port w s := by
  rw [State.withFetchWord, tableWord_toNat, portOfWord_eq_port hd]

/-- Settles O6: by the port of the message, the word is taken from where it was placed, the rest of the channel as it was. -/
theorem fetchWordRunsNext : Obligations.FetchWordRunsNext := by
  intro s w i hd
  rw [withFetchWord_eq hd]
  cases hport : i.port with
  | hostCommand =>
    refine ⟨fun _ _ => ?_, by simp, by simp⟩
    rw [step_scheduled (ms := s.sched) rfl, perform_host_word (q := s.hostq) rfl, deliver_message hd hport]
    rfl
  | hostEvent =>
    refine ⟨fun _ _ => ?_, by simp, by simp⟩
    rw [step_scheduled (ms := s.sched) rfl, perform_host_wait (q := s.hostq) (e := s.evq) rfl rfl,
      deliver_message hd hport]
    rfl
  | report =>
    refine ⟨fun _ _ => ?_, by simp, by simp⟩
    rw [step_scheduled (ms := s.sched) rfl, perform_collect (x := w) rfl, deliver_message hd hport]
    rfl
  | hostResponse =>
    refine ⟨by simp, fun _ => ?_, by simp⟩
    rw [step_scheduled (ms := s.sched) rfl, perform_response rfl, deliver_message hd hport]
    rfl
  | workerCommand =>
    refine ⟨by simp, by simp, fun _ hnt => ?_⟩
    rw [step_scheduled (ms := s.sched) rfl]
    have hcmd : (placeWord .workerCommand w s).cmdAt 0 = [w] := State.cmdAt_setCmd_self ..
    have hhalted : ((placeWord .workerCommand w s).worker 0).run = .halted :=
      congrArg Worker.run (State.worker_setWorker_self ..)
    refine (perform_command (s := { placeWord .workerCommand w s with sched := s.sched }) hnt hhalted hcmd).trans ((deliver_message hd hport _).trans (congrArg (exec i) ?_))
    simp [State.takeCmd, State.setCmd, placeWord]

end Sys2Proof.Machine
end

section
/-! PROOFS. A whole worker command is its receipt, its atoms one by one, and its report (41_worker.md R148). -/

namespace Sys2Proof.Machine

theorem andThen_congr {o : Host.Outcome State Fault Refusal} {f g : State → Host.Outcome State Fault Refusal}
    (h : ∀ s, o = .next s → f s = g s) : andThen o f = andThen o g := by
  cases o with
  | next s => exact h s rfl
  | fault r => rfl
  | refused r => rfl

theorem andThen_next_self (o : Host.Outcome State Fault Refusal) : andThen o .next = o := by cases o <;> rfl

/-- Everything a receipt can answer (41_worker.md R150, R153): the work of a STRIDED or of a LOCAL is taken up. -/
theorem receiveOnly_next {c : Word} {s t : State} (h : receiveOnly c s = .next t) :
    workerCountOk s.nu s.nt = true ∧ ∃ d l, t = s.beginWork s.acting d l ∧
      ((∃ init buf, decode c = .instr (.strided init buf) ∧ d = stridedDescriptor init buf s.nu (s.worker s.acting) ∧
          l = stageWork (stridedLegs s.size s.nt d.n2 s.acting)) ∨
        (decode c = .instr .localRemainder ∧ d = s.worker s.acting ∧ l = localWork s.acting d.n2)) := by
  cases hd : decode c with
  | reject r => simp [receiveOnly, hd] at h
  | instr i =>
    cases i with
    | strided init buf =>
      have hr : receiveStrided s.acting init buf s = .next t := by simpa only [receiveOnly, hd] using h
      obtain ⟨hcount, ht⟩ := receiveStrided_next hr
      exact ⟨hcount, stridedDescriptor init buf s.nu (s.worker s.acting), _, ht, .inl ⟨init, buf, rfl, rfl, rfl⟩⟩
    | localRemainder =>
      have hr : receiveLocal s.acting s = .next t := by simpa only [receiveOnly, hd] using h
      obtain ⟨hcount, ht⟩ := receiveLocal_next hr
      exact ⟨hcount, s.worker s.acting, _, ht, .inr ⟨rfl, rfl, rfl⟩⟩
    | config | submit | isbusy | shutdown | ack | done | rsp => simp [receiveOnly, hd] at h

/-- A word on a worker's channel is received, and then the command is finished; a foreign word is refused either way. -/
theorem deliver_workerCommand (c : Word) (s : State) :
    deliver .workerCommand c s = andThen (receiveOnly c s) (finishCommand s.acting) := by
  unfold deliver receiveOnly
  cases hd : decode c with
  | reject r => rfl
  | instr i => cases i <;> rfl

/-- An atom keeps the worker at its command, and at its place in it. -/
theorem doWork_worker {w : Nat} {it : Work} {s t : State} (h : doWork w it s = .next t) :
    (t.worker w).run = (s.worker w).run ∧ (t.worker w).todo = (s.worker w).todo ∧ (t.worker w).buf = (s.worker w).buf := by
  cases it with
  | bfly k =>
    obtain hf | ⟨ar, ai, br, bi, -, -, -, -, hn⟩ := bfly_cases w k s
    · simp [doWork, hf] at h
    · simp only [doWork, hn, Host.Outcome.next.injEq] at h
      subst h
      exact ⟨rfl, rfl, rfl⟩
  | endStage =>
    simp only [doWork, Host.Outcome.next.injEq] at h
    subst h
    simp [Worker.endStage]

theorem State.SameButWork.nt_eq {s t : State} {w : Nat} (h : s.SameButWork t w) : t.nt = s.nt := by
  have hc := h.coordinator
  simp only [Prod.mk.injEq] at hc
  obtain ⟨-, -, -, -, -, -, hnt, -⟩ := hc
  exact hnt

/-- The atoms of a command and its report, as one operation or as single moves. -/
theorem finish_eq_performAll {w : Nat} {l : List Work} {s : State} (hw : w < s.nt) (hrun : (s.worker w).run = .running)
    (hl : (s.worker w).todo = l) :
    andThen (runWork w l s) (fun t => .next (t.sendAck w)) =
      performAll (List.replicate l.length (.work w) ++ [.report w]) s := by
  induction l generalizing s with
  | nil => simp [runWork, performAll, perform_report hw hrun hl]
  | cons it l ih =>
    rw [runWork_cons, andThen_assoc, List.length_cons, List.replicate_succ, List.cons_append, performAll,
      perform_work hw hrun hl]
    refine andThen_congr fun u hu => ih ?_ ?_ ?_
    · rwa [(doWork_frame hu).nt_eq]
    · rw [(doWork_worker hu).1]
      simpa using hrun
    · rw [(doWork_worker hu).2.1]
      simp

/-- The moves that make up the command which worker `w` has received. -/
def State.movesLeft (s : State) (w : Nat) : List Move :=
  List.replicate (s.worker w).todo.length (.work w) ++ [.report w]

/-- Everything a whole command does, faults and refusals included, its receipt, atoms and report do (R148). -/
theorem perform_command_eq {s : State} {w : Nat} (he : enabled (.command w) s = true) :
    perform (.command w) s = andThen (perform (.receive w) s) (fun u => performAll (u.movesLeft w) u) := by
  obtain ⟨hw, hrun, c, cs, hc⟩ := enabled_command_iff.mp he
  rw [perform_command hw hrun hc, perform_receive hw hrun hc, deliver_workerCommand]
  refine andThen_congr fun u hu => ?_
  obtain ⟨-, d, l, rfl, -⟩ := receiveOnly_next hu
  exact finish_eq_performAll hw (by simp [State.takeCmd]) rfl

/-- Settles O28: the number of atoms is the length of the work received. -/
theorem wholeCommandIsItsAtoms : Obligations.WholeCommandIsItsAtoms := by
  intro s t w he hp
  obtain ⟨u, hu, ht⟩ := andThen_eq_next.mp ((perform_command_eq he).symm.trans hp)
  refine ⟨(u.worker w).todo.length, ?_⟩
  rw [performAll, hu, andThen_next]
  exact ht

end Sys2Proof.Machine
end

section
/-! PROOFS. The host commands and their responses (42_coordinator.md R171 to R175; 43_lifecycle.md R200 to R206). -/

namespace Sys2Proof.Machine

/-- The words of the responses that a command gives with a status of its own (30_encoding.md R99). -/
theorem encode_rsp_ok (b : Bool) : encode (.rsp b 0) = if b then 0xE0000100#32 else 0xE0000000#32 := by
  cases b <;> decide

theorem respond_eq (s : State) (c : Status) :
    s.respond c = { s with seen := s.seen ++ [.response (encode (.rsp s.busy c.code))] } := rfl

/-- Settles O30. -/
theorem configFailures : Obligations.ConfigFailures := by
  intro s nu hint
  refine ⟨fun hst => ?_, fun hst hbad => ?_, fun hst hnu hfits hlimit => ?_⟩
  · simp [exec, execConfig, hst, respond_eq, Status.code]
  · obtain hnu | hcount := hbad
    · simp [exec, execConfig, hst, hnu, respond_eq, Status.code]
    · simp [exec, execConfig, hst, hcount, respond_eq, Status.code]
  · have hnot : ¬ (nu ≤ Config.nuMax ∧ ceilpow2 hint ≤ Config.ntMax) := by omega
    simp only [exec, execConfig, hst, hnot, Nat.not_lt.mpr hnu, Nat.not_lt.mpr hfits, respond_eq, Status.code,
      if_false, ne_eq, not_true_eq_false]

theorem freeWorker_halted (t i : Nat) : (freeWorker t i).run = .halted ∧ (freeWorker t i).todo = [] := ⟨rfl, rfl⟩

/-- A worker of a list of new descriptors, or beyond it, is halted with nothing to do. -/
theorem getD_freeWorkers_halted (n t w : Nat) :
    (((List.range n).map (freeWorker t)).getD w Worker.powerOn).run = .halted ∧
      (((List.range n).map (freeWorker t)).getD w Worker.powerOn).todo = [] := by
  obtain hw | hw := Nat.lt_or_ge w n
  · simp [List.getD, List.getElem?_map, List.getElem?_range hw, freeWorker_halted]
  · simp [List.getD, hw, Worker.powerOn]

theorem State.worker_construct_halted (s : State) (nu nt w : Nat) :
    ((s.construct nu nt).worker w).run = .halted ∧ ((s.construct nu nt).worker w).todo = [] :=
  getD_freeWorkers_halted ..

theorem State.worker_release_halted (s : State) (w : Nat) :
    (s.release.worker w).run = .halted ∧ (s.release.worker w).todo = [] :=
  getD_freeWorkers_halted ..

theorem State.cmdAt_construct (s : State) (nu nt w : Nat) : (s.construct nu nt).cmdAt w = [] := by
  simp [State.construct, State.cmdAt, List.getD, List.getElem?_replicate]
  split <;> rfl

/-- The worker count CONFIG takes is a power of two (R201). -/
theorem two_pow_log2_ceilpow2 (hint : Int) : 2 ^ Nat.log2 (ceilpow2 hint) = ceilpow2 hint := by
  obtain ⟨k, -, hk⟩ := (ceilpow2IsTheSmallest hint).1
  rw [hk, Nat.log2_two_pow]

theorem two_le_ceilpow2 (hint : Int) : 2 ≤ ceilpow2 hint := by
  obtain ⟨k, hk1, hk⟩ := (ceilpow2IsTheSmallest hint).1
  rw [hk]
  exact Nat.le_self_pow (by omega) 2

theorem cosAt_construct {nu i : Nat} (hi : i < 2 ^ nu) (s : State) (nt : Nat) :
    (s.construct nu nt).cosAt i = (Config.twGen nu i).1 := by
  simp [State.construct, State.cosAt, buildCos, List.getD, hi]

theorem sinAt_construct {nu i : Nat} (hi : i < 2 ^ nu) (s : State) (nt : Nat) :
    (s.construct nu nt).sinAt i = (Config.twGen nu i).2 := by
  simp [State.construct, State.sinAt, buildSin, List.getD, hi]

theorem execConfig_ok {s : State} {nu : Nat} {hint : Int} (hst : s.st = .unconf) (hnu : 1 ≤ nu)
    (hfits : ceilpow2 hint ≤ 2 ^ nu / 2) (hmax : nu ≤ Config.nuMax) (hcount : ceilpow2 hint ≤ Config.ntMax) :
    execConfig nu hint s = .next ((s.construct nu (ceilpow2 hint)).respond .ok) := by
  simp only [execConfig, hst, Nat.not_lt.mpr hnu, Nat.not_lt.mpr hfits, hmax, hcount, and_self, if_true, if_false,
    ne_eq, not_true_eq_false]

/-- Settles O29. -/
theorem configConstructs : Obligations.ConfigConstructs := by
  intro s nu hint hst hnu hfits hmax hcount
  refine ⟨_, execConfig_ok hst hnu hfits hmax hcount, rfl, rfl, rfl, rfl, rfl, two_pow_log2_ceilpow2 hint, ?_, ?_,
    fun i hi => ⟨cosAt_construct hi s (ceilpow2 hint), sinAt_construct hi s (ceilpow2 hint)⟩, fun w => ?_, rfl, ?_, rfl, rfl, rfl, rfl, rfl, rfl, rfl⟩
  · simp [State.construct, buildCos]
  · simp [State.construct, buildSin]
  · obtain ⟨hrun, htodo⟩ := s.worker_construct_halted nu (ceilpow2 hint) w
    exact ⟨hrun, htodo, s.cmdAt_construct nu _ w⟩
  · simp [State.construct, Status.code, encode_rsp_ok]

theorem execShutdown_idle {s : State} (hst : s.st ≠ .unconf) (hbusy : s.busy = false) :
    execShutdown s = .next (s.release.respond .ok) := by
  simp [execShutdown, hst, hbusy]

/-- Settles O31. -/
theorem shutdownReleases : Obligations.ShutdownReleases := by
  intro s
  refine ⟨fun hst hbusy => ?_, fun hst => ?_⟩
  · refine ⟨_, execShutdown_idle hst hbusy, rfl, hbusy, ?_, fun w => s.worker_release_halted w,
      rfl, rfl, rfl, rfl, rfl, rfl, rfl, rfl, rfl⟩
    simp [State.release, Status.code, hbusy, encode_rsp_ok]
  · simp [exec, execShutdown, hst, respond_eq, Status.code]

theorem longEnough_iff {m : Memory} {h : Handle} {n : Nat} :
    m.longEnough h n = true ↔ n ≤ (m.lookup h.toNat).real.length ∧ n ≤ (m.lookup h.toNat).imag.length := by
  simp [Memory.longEnough]

theorem execSubmit_ok {s : State} {buf : Handle} (hst : s.st ≠ .unconf) (hbusy : s.busy = false)
    (hlong : s.mem.longEnough buf s.size = true) (cb : Callback) :
    execSubmit buf cb s = .next ((s.accept buf cb).respond .ok) := by
  simp [execSubmit, hst, hbusy, hlong]

theorem State.cmdAt_accept_lt (s : State) (buf : Handle) (cb : Callback) {w : Nat} (hw : w < s.nt) :
    (s.accept buf cb).cmdAt w = s.cmdAt w ++ [encode (.strided true buf)] :=
  State.cmdAt_broadcast_lt _ _ hw

theorem State.cmdAt_accept_ge (s : State) (buf : Handle) (cb : Callback) {w : Nat} (hw : s.nt ≤ w) :
    (s.accept buf cb).cmdAt w = s.cmdAt w :=
  State.cmdAt_broadcast_ge _ _ hw

/-- Settles O33. -/
theorem submitStartsATransform : Obligations.SubmitStartsATransform := by
  intro s buf cb hst hbusy hreal himag
  refine ⟨_, execSubmit_ok hst hbusy (longEnough_iff.mpr ⟨hreal, himag⟩) cb, ?_,
    fun w hw => s.cmdAt_accept_lt buf cb hw, fun w hw => s.cmdAt_accept_ge buf cb hw⟩
  have hword : encode (.rsp true Status.ok.code) = 0xE0000100#32 := by decide
  rw [← hword]
  rfl

/-- Settles O34. -/
theorem submitRejections : Obligations.SubmitRejections := by
  intro s buf cb
  refine ⟨fun hst => ?_, fun hst hbusy => ?_, fun hst hbusy hshort => ?_⟩
  · simp [exec, execSubmit, hst, respond_eq, Status.code]
  · have hword : encode (.rsp true 1) = 0xE0000101#32 := by decide
    simp [exec, execSubmit, hst, hbusy, respond_eq, Status.code, hword]
  · have hword : encode (.rsp false 3) = 0xE0000003#32 := by decide
    have hlong : s.mem.longEnough buf s.size = false := by
      rw [← Bool.not_eq_true, longEnough_iff]
      omega
    simp [exec, execSubmit, hst, hbusy, hlong, respond_eq, Status.code, hword]

/-- Settles O35. -/
theorem isbusyAnswersBusy : Obligations.IsbusyAnswersBusy := by
  intro s
  refine ⟨fun hst => ?_, fun hst => ?_⟩
  · simp [exec, execIsbusy, hst, respond_eq, Status.code]
  · simp [exec, execIsbusy, hst, respond_eq, Status.code, encode_rsp_ok]

end Sys2Proof.Machine
end

section
/-! PROOFS. The barrier, the completion and the return to idle (42_coordinator.md R177 to R185), and the host's taking of
what it is told (60_exceptions.md R230). -/

namespace Sys2Proof.Machine

theorem awaitsReport_iff {s : State} : s.awaitsReport = true ↔ (s.st = .dist ∨ s.st = .localPhase) ∧ 1 ≤ s.pack := by
  simp [State.awaitsReport]

/-- Settles O36. -/
theorem ackIsCounted : Obligations.AckIsCounted := by
  intro s id hst hpack
  have hawait : s.awaitsReport = true := awaitsReport_iff.mpr ⟨hst, by omega⟩
  have hmore : s.pack - 1 ≠ 0 := by omega
  simp [exec, execAck, hawait, hmore]

/-- The last report of a round releases the barrier (R178). -/
theorem execAck_last {s : State} (hst : s.st = .dist ∨ s.st = .localPhase) (hpack : s.pack = 1) (id : Nat) :
    execAck id s = release { s with pack := 0 } := by
  have hawait : s.awaitsReport = true := awaitsReport_iff.mpr ⟨hst, by omega⟩
  simp [execAck, hawait, hpack]

theorem release_dist_next_round {s : State} {h : Handle} (hst : s.st = .dist) (hphase : s.phase < s.nt)
    (hbuf : s.buf = some h) : release s = .next { s.broadcast (.strided false h) with phase := s.phase * 2 } := by
  simp [release, hst, releaseDist, hphase, hbuf]

theorem release_dist_last_round {s : State} (hst : s.st = .dist) (hphase : s.nt ≤ s.phase) :
    release s = .next { s.broadcast .localRemainder with st := .localPhase } := by
  simp [release, hst, releaseDist, Nat.not_lt.mpr hphase]

/-- Settles O37. -/
theorem lastAckOfADistributedRound : Obligations.LastAckOfADistributedRound := by
  intro s id hst hpack
  refine ⟨fun h hphase hbuf => ?_, fun hphase => ?_⟩
  · refine ⟨_, (execAck_last (.inl hst) hpack id).trans (release_dist_next_round hst hphase hbuf), rfl,
      fun w hw => ?_, fun w hw => ?_⟩
    · exact State.cmdAt_broadcast_lt { s with pack := 0 } _ hw
    · exact State.cmdAt_broadcast_ge { s with pack := 0 } _ hw
  · refine ⟨_, (execAck_last (.inl hst) hpack id).trans (release_dist_last_round hst hphase), ?_,
      fun w hw => ?_, fun w hw => ?_⟩
    · simp [State.broadcast]
    · exact State.cmdAt_broadcast_lt { s with pack := 0 } _ hw
    · exact State.cmdAt_broadcast_ge { s with pack := 0 } _ hw

/-- Settles O38. -/
theorem lastAckOfTheLocalRound : Obligations.LastAckOfTheLocalRound := by
  intro s id hst hpack
  refine (execAck_last (.inr hst) hpack id).trans ?_
  simp [release, hst, releaseLocal]

/-- Settles O39. -/
theorem strayAckRefused : Obligations.StrayAckRefused := by
  intro s id hstray
  have hawait : s.awaitsReport = false := by
    rw [← Bool.not_eq_true, awaitsReport_iff]
    rintro ⟨hst | hst, hpack⟩
    all_goals simp [hst] at hstray; omega
  simp [exec, execAck, hawait]

/-- Settles O43. -/
theorem notifyEmitsDone : Obligations.NotifyEmitsDone := by
  intro s ms h hs hst hrk hn hbuf hspoiled
  rw [step_scheduled hs, perform_notify (s := { s with sched := ms }) hst hrk hn]
  simp [notify, hbuf, hspoiled, State.emitDone]

/-- Settles O44. -/
theorem returnToIdle : Obligations.ReturnToIdle :=
  fun _ _ hs hst hn => (step_scheduled hs).trans (perform_toIdle hst hn)

/-- Settles O45: a wait takes the head of `evq`, and the response move the word on the response port. -/
theorem hostTakesInOrder : Obligations.HostTakesInOrder := by
  refine ⟨fun s cb buf => ⟨rfl, fun ms q e hs hq he => ?_⟩, fun s busy status => ⟨rfl, fun ms hstatus hs hr => ?_⟩⟩
  · exact (step_scheduled hs).trans ((perform_host_wait (s := { s with sched := ms }) hq he).trans
      (deliver_encode (i := .done cb buf) rfl rfl _))
  · have hwf : (Instr.rsp busy status).wf = true := decide_eq_true hstatus
    exact (step_scheduled hs).trans ((perform_response (s := { s with sched := ms }) hr).trans
      (deliver_encode hwf rfl _))

/-- The report port takes reports only (30_encoding.md R103). -/
theorem deliver_report_next {x : Word} {s t : State} (h : deliver .report x s = .next t) :
    ∃ id, decode x = .instr (.ack id) ∧ execAck id s = .next t := by
  cases hd : decode x with
  | reject r => simp [deliver, hd, stray] at h
  | instr i =>
    cases i with
    | ack id => exact ⟨id, rfl, by simpa [deliver, hd, Instr.port, exec] using h⟩
    | config | submit | isbusy | shutdown | strided | localRemainder | done | rsp =>
      simp [deliver, hd, stray, Instr.port] at h

/-- Counting a report uses neither its `id` nor the reports that are left. -/
theorem execAck_with_ackq {id : Nat} {s t : State} (h : execAck id s = .next t) (id' : Nat) (q : List Word) :
    execAck id' { s with ackq := q } = .next { t with ackq := q } := by
  obtain ⟨hst, ⟨hpack, rfl⟩ | ⟨hpack, hdist, hr⟩ | ⟨hpack, hlocal, rfl⟩⟩ := execAck_next h
  · exact ackIsCounted { s with ackq := q } id' hst hpack
  · rw [execAck_last (s := { s with ackq := q }) hst hpack]
    obtain ⟨b, hbuf, hphase, rfl⟩ | ⟨hphase, rfl⟩ := releaseDist_next hr
    · exact release_dist_next_round (s := { s with ackq := q, pack := 0 }) hdist hphase hbuf
    · exact release_dist_last_round (s := { s with ackq := q, pack := 0 }) hdist hphase
  · exact lastAckOfTheLocalRound { s with ackq := q } id' hlocal hpack

/-- Settles O40: each of the two words is a report, and counting one gives what counting the other does. -/
theorem reportOrderDoesNotMatter : Obligations.ReportOrderDoesNotMatter := by
  intro s t u i j ht hu hi hj
  rw [perform_collect (List.getElem?_eq_getElem hi)] at ht
  rw [perform_collect (List.getElem?_eq_getElem hj)] at hu
  obtain ⟨id, -, hid⟩ := deliver_report_next ht
  obtain ⟨id', -, hid'⟩ := deliver_report_next hu
  exact Host.Outcome.next.inj (hid'.symm.trans (execAck_with_ackq hid id' (s.ackq.eraseIdx j)))

end Sys2Proof.Machine
end

section
/-! PROOFS. What a move of a worker leaves alone (41_worker.md R148). -/

namespace Sys2Proof.Machine

/-- `t` is `s` after something that worker `w` has done: everything but its descriptor and channel, the sample memory, the
reports and the model's own `acting` and `draws` is as it was. -/
structure State.AtWork (s t : State) (w : Nat) : Prop where
  rest : t = { s with workers := t.workers, mem := t.mem, cmdq := t.cmdq, ackq := t.ackq, acting := t.acting,
                      draws := t.draws }
  others : ∀ v, v ≠ w → t.worker v = s.worker v ∧ t.cmdAt v = s.cmdAt v
  workers : w < s.workers.length → t.workers.length = s.workers.length
  channels : w < s.cmdq.length → t.cmdq.length = s.cmdq.length
  memory : s.mem.wf = true → t.mem.wf = true

namespace State.AtWork

variable {s t u : State} {w : Nat}

theorem refl (s : State) (w : Nat) : s.AtWork s w := ⟨rfl, fun _ _ => ⟨rfl, rfl⟩, fun _ => rfl, fun _ => rfl, id⟩

theorem trans (h : s.AtWork t w) (g : t.AtWork u w) : s.AtWork u w where
  rest := g.rest.trans (by rw [h.rest])
  others v hv := ⟨(g.others v hv).1.trans (h.others v hv).1, (g.others v hv).2.trans (h.others v hv).2⟩
  workers hw := (g.workers ((h.workers hw).symm ▸ hw)).trans (h.workers hw)
  channels hw := (g.channels ((h.channels hw).symm ▸ hw)).trans (h.channels hw)
  memory hm := g.memory (h.memory hm)

theorem st (h : s.AtWork t w) : t.st = s.st := by rw [h.rest]
theorem busy (h : s.AtWork t w) : t.busy = s.busy := by rw [h.rest]
theorem phase (h : s.AtWork t w) : t.phase = s.phase := by rw [h.rest]
theorem sul (h : s.AtWork t w) : t.sul = s.sul := by rw [h.rest]
theorem pack (h : s.AtWork t w) : t.pack = s.pack := by rw [h.rest]
theorem nu (h : s.AtWork t w) : t.nu = s.nu := by rw [h.rest]
theorem nt (h : s.AtWork t w) : t.nt = s.nt := by rw [h.rest]
theorem buf (h : s.AtWork t w) : t.buf = s.buf := by rw [h.rest]
theorem cb (h : s.AtWork t w) : t.cb = s.cb := by rw [h.rest]
theorem cosTab (h : s.AtWork t w) : t.cosTab = s.cosTab := by rw [h.rest]
theorem sinTab (h : s.AtWork t w) : t.sinTab = s.sinTab := by rw [h.rest]
theorem evq (h : s.AtWork t w) : t.evq = s.evq := by rw [h.rest]
theorem rsp (h : s.AtWork t w) : t.rsp = s.rsp := by rw [h.rest]
theorem hostq (h : s.AtWork t w) : t.hostq = s.hostq := by rw [h.rest]
theorem seen (h : s.AtWork t w) : t.seen = s.seen := by rw [h.rest]

end State.AtWork

theorem State.atWork_takeCmd (s : State) (w : Nat) (cs : List Word) : s.AtWork (s.takeCmd w cs) w where
  rest := rfl
  others _ hv := ⟨rfl, State.cmdAt_setCmd_ne s cs (Ne.symm hv)⟩
  workers _ := rfl
  channels hw := (length_setAt _ _ _ _).trans (max_eq_left hw)
  memory := id

theorem State.atWork_setWorker (s : State) (w : Nat) (d : Worker) : s.AtWork (s.setWorker w d) w where
  rest := rfl
  others _ hv := ⟨State.worker_setWorker_ne s d (Ne.symm hv), rfl⟩
  workers hw := (length_setAt _ _ _ _).trans (max_eq_left hw)
  channels _ := rfl
  memory := id

theorem State.atWork_sendAck (s : State) (w : Nat) : s.AtWork (s.sendAck w) w where
  rest := rfl
  others _ hv := ⟨s.worker_sendAck_ne (Ne.symm hv), rfl⟩
  workers hw := (length_setAt _ _ _ _).trans (max_eq_left hw)
  channels _ := rfl
  memory := id

theorem doWork_atWork {w : Nat} {it : Work} {s t : State} (h : doWork w it s = .next t) : s.AtWork t w := by
  cases it with
  | bfly k =>
    obtain hf | ⟨ar, ai, br, bi, -, -, -, -, hn⟩ := bfly_cases w k s
    · simp [doWork, hf] at h
    · simp only [doWork, hn, Host.Outcome.next.injEq] at h
      subst h
      exact ⟨rfl, fun _ _ => ⟨rfl, rfl⟩, fun _ => rfl, fun _ => rfl, Memory.wf_writeLegs _ _ _ _⟩
  | endStage =>
    simp only [doWork, Host.Outcome.next.injEq] at h
    subst h
    exact s.atWork_setWorker w _

theorem runWork_atWork {w : Nat} {l : List Work} {s t : State} (h : runWork w l s = .next t) : s.AtWork t w := by
  induction l generalizing s with
  | nil => cases h; exact .refl _ w
  | cons it l ih =>
    obtain ⟨u, hu, hr⟩ := andThen_eq_next.mp h
    exact ((State.atWork_setWorker _ w _).trans (doWork_atWork hu)).trans (ih hr)

theorem receiveOnly_atWork {c : Word} {s t : State} (h : receiveOnly c s = .next t) : s.AtWork t s.acting := by
  obtain ⟨-, d, l, rfl, -⟩ := receiveOnly_next h
  exact s.atWork_setWorker _ _

/-- The moves of a worker, and which worker's they are. -/
def Move.workerOf : Move → Option Nat
  | .command w => some w
  | .receive w => some w
  | .work w => some w
  | .report w => some w
  | .host => none
  | .collect _ => none
  | .reorder => none
  | .notify => none
  | .toIdle => none
  | .response => none

/-- Every move of a worker is something that worker does. -/
theorem perform_atWork {m : Move} {w : Nat} (hm : m.workerOf = some w) {s t : State} (h : perform m s = .next t) :
    s.AtWork t w := by
  cases he : enabled m s with
  | false => rw [perform_disabled he] at h; cases h; exact .refl s w
  | true =>
    cases m with
    | command v =>
      cases hm
      obtain ⟨hw, hrun, c, cs, hc⟩ := enabled_command_iff.mp he
      rw [perform_command hw hrun hc, deliver_workerCommand] at h
      obtain ⟨u, hu, hf⟩ := andThen_eq_next.mp h
      obtain ⟨r, hr, ht⟩ := andThen_eq_next.mp hf
      cases ht
      exact (((s.atWork_takeCmd w cs).trans (receiveOnly_atWork hu)).trans (runWork_atWork hr)).trans
        (r.atWork_sendAck w)
    | receive v =>
      cases hm
      obtain ⟨hw, hrun, c, cs, hc⟩ := enabled_command_iff.mp he
      rw [perform_receive hw hrun hc] at h
      exact (s.atWork_takeCmd w cs).trans (receiveOnly_atWork h)
    | work v =>
      cases hm
      obtain ⟨hw, hrun, it, l, hl⟩ := enabled_work_iff.mp he
      rw [perform_work hw hrun hl] at h
      exact (s.atWork_setWorker w _).trans (doWork_atWork h)
    | report v =>
      cases hm
      obtain ⟨hw, hrun, hl⟩ := enabled_report_iff.mp he
      rw [perform_report hw hrun hl] at h
      cases h
      exact s.atWork_sendAck w
    | host | collect | reorder | notify | toIdle | response => cases hm

theorem lt_nt_of_enabled {m : Move} {w : Nat} (hm : m.workerOf = some w) {s : State} (he : enabled m s = true) :
    w < s.nt := by
  cases m with
  | command v | receive v => cases hm; exact (enabled_command_iff.mp he).1
  | work v => cases hm; exact (enabled_work_iff.mp he).1
  | report v => cases hm; exact (enabled_report_iff.mp he).1
  | host | collect | reorder | notify | toIdle | response => cases hm

end Sys2Proof.Machine
end

section
/-! PROOFS. Everything a move can do when it goes on (00_scope.md R13). -/

namespace Sys2Proof.Machine

/-- `Transition s m t`: the move `m` leads from `s` to `t`. One case for each thing an agent can do. -/
inductive Transition (s : State) : Move → State → Prop
  /-- A move that is not enabled (log 21). -/
  | disabled {m : Move} (he : enabled m s = false) : Transition s m s
  /-- A host word that is answered and changes nothing: ISBUSY, an illegal word, or a command that is rejected. -/
  | answered {w : Word} {q : List HostAct} (c : Status) (hq : s.hostq = .word w :: q) :
      Transition s .host (({ s with hostq := q } : State).respond c)
  /-- An accepted CONFIG (43_lifecycle.md R200). -/
  | configured {w : Word} {q : List HostAct} {nu : Nat} {hint : Int} (hq : s.hostq = .word w :: q)
      (hd : decode w = .instr (.config nu hint)) (hst : s.st = .unconf) (hfits : ceilpow2 hint ≤ 2 ^ nu / 2)
      (hmax : nu ≤ Config.nuMax) (hcount : ceilpow2 hint ≤ Config.ntMax) :
      Transition s .host ((({ s with hostq := q } : State).construct nu (ceilpow2 hint)).respond .ok)
  /-- An accepted SUBMIT (42_coordinator.md R171). -/
  | submitted {w : Word} {q : List HostAct} {b : Handle} {cb : Callback} (hq : s.hostq = .word w :: q)
      (hd : decode w = .instr (.submit b cb)) (hst : s.st ≠ .unconf) (hbusy : s.busy = false)
      (hlong : s.mem.longEnough b s.size = true) :
      Transition s .host ((({ s with hostq := q } : State).accept b cb).respond .ok)
  /-- SHUTDOWN from idle (43_lifecycle.md R205). -/
  | shutDown {w : Word} {q : List HostAct} (hq : s.hostq = .word w :: q) (hd : decode w = .instr .shutdown)
      (hst : s.st ≠ .unconf) (hbusy : s.busy = false) :
      Transition s .host (({ s with hostq := q } : State).release.respond .ok)
  /-- The host takes a completion (60_exceptions.md R230). -/
  | completed {x : Word} {e : List Word} {q : List HostAct} (cb : Callback) (b : Handle) (hq : s.hostq = .waitDone :: q)
      (he : s.evq = x :: e) :
      Transition s .host (({ s with hostq := q, evq := e } : State).tell (.completion cb b))
  /-- The host binds a buffer (20_memory.md R60). -/
  | bound {h : Handle} {b : Buffer} {q : List HostAct} (hq : s.hostq = .bind h b :: q) (hbuf : s.buf ≠ some h) :
      Transition s .host { s with hostq := q, mem := s.mem.put h.toNat b }
  /-- The host writes the lent buffer (20_memory.md R81). -/
  | spoilt {a : Addr} {v u : Sample} {q : List HostAct} (hq : s.hostq = .write a v :: q) (hu : s.mem.readEl a = some u)
      (hlent : s.lent a = true) :
      Transition s .host { ({ s with hostq := q } : State).redraw a.handle with spoiled := true }
  /-- The host writes an element of its own. -/
  | wrote {a : Addr} {v u : Sample} {q : List HostAct} (hq : s.hostq = .write a v :: q) (hu : s.mem.readEl a = some u)
      (hlent : s.lent a = false) : Transition s .host { s with hostq := q, mem := s.mem.writeEl a v }
  /-- The host reads an element. -/
  | read {a : Addr} {q : List HostAct} (v : Sample) (n : Nat) (hq : s.hostq = .read a :: q) :
      Transition s .host { s with hostq := q, seen := s.seen ++ [.datum v], draws := n }
  /-- A worker does something (41_worker.md R148). -/
  | worked {m : Move} {w : Nat} {t : State} (hm : m.workerOf = some w) (hw : w < s.nt) (h : s.AtWork t w) :
      Transition s m t
  /-- A report is counted (42_coordinator.md R177). -/
  | counted {n : Nat} (hn : n < s.ackq.length) (hst : s.st = .dist ∨ s.st = .localPhase) (hpack : 2 ≤ s.pack) :
      Transition s (.collect n) { s with ackq := s.ackq.eraseIdx n, pack := s.pack - 1 }
  /-- The last report of a STRIDED round, with rounds left (R179). -/
  | nextRound {n : Nat} {h : Handle} (hn : n < s.ackq.length) (hst : s.st = .dist) (hpack : s.pack = 1)
      (hphase : s.phase < s.nt) (hbuf : s.buf = some h) :
      Transition s (.collect n)
        { ({ s with ackq := s.ackq.eraseIdx n, pack := 0 } : State).broadcast (.strided false h) with
          phase := s.phase * 2 }
  /-- The last report of the last STRIDED round (R179). -/
  | lastRound {n : Nat} (hn : n < s.ackq.length) (hst : s.st = .dist) (hpack : s.pack = 1) (hphase : s.nt ≤ s.phase) :
      Transition s (.collect n)
        { ({ s with ackq := s.ackq.eraseIdx n, pack := 0 } : State).broadcast .localRemainder with st := .localPhase }
  /-- The last report of the LOCAL round (R181). -/
  | roundsOver {n : Nat} (hn : n < s.ackq.length) (hst : s.st = .localPhase) (hpack : s.pack = 1) :
      Transition s (.collect n) (releaseLocal { s with ackq := s.ackq.eraseIdx n, pack := 0 })
  /-- A reorder step that exchanges nothing (R182). -/
  | passed (hst : s.st = .reord) (hrk : s.rk < s.size) : Transition s .reorder { s with rk := s.rk + 1 }
  /-- A reorder step that exchanges two elements (R182). -/
  | exchanged {h : Handle} {xr yr xi yi : Sample} (hst : s.st = .reord) (hrk : s.rk < s.size) (hbuf : s.buf = some h)
      (hxr : s.mem.readEl ⟨h, .real, s.rk⟩ = some xr) (hyr : s.mem.readEl ⟨h, .real, bitrev s.rk s.nu⟩ = some yr)
      (hxi : s.mem.readEl ⟨h, .imag, s.rk⟩ = some xi) (hyi : s.mem.readEl ⟨h, .imag, bitrev s.rk s.nu⟩ = some yi) :
      Transition s .reorder { s with mem := swapEls s.mem h s.rk (bitrev s.rk s.nu) xr yr xi yi, rk := s.rk + 1 }
  /-- The notify step (R184). -/
  | notified {h : Handle} (hst : s.st = .reord) (hrk : s.rk = s.size) (hbuf : s.buf = some h) :
      Transition s .notify
        { (if s.spoiled then s.redraw h else s).emitDone h with buf := none, notified := true }
  /-- The return to idle (R185). -/
  | wentIdle (hst : s.st = .reord) (hn : s.notified = true) : Transition s .toIdle (toIdle s)
  /-- A word that stands on the response port is given to the host (log 26). -/
  | responded {x : Word} (b : Bool) (c : Nat) (hx : s.rsp = some x) :
      Transition s .response (({ s with rsp := none } : State).tell (.response (encode (.rsp b c))))

section
variable {s t : State}

/-- What a word on the host command port can do. -/
theorem transition_of_host_word {w : Word} {q : List HostAct} (hq : s.hostq = .word w :: q)
    (h : deliver .hostCommand w { s with hostq := q } = .next t) : Transition s .host t := by
  by_cases hlegal : ∃ i, decode w = .instr i ∧ i.port = .hostCommand
  · obtain ⟨i, hd, hp⟩ := hlegal
    rw [deliver_message hd hp] at h
    cases i with
    | config nu hint =>
      obtain ⟨-, rfl⟩ | ⟨-, -, rfl⟩ | ⟨-, -, -, -, rfl⟩ | ⟨hst, -, hfits, hmax, hcount, rfl⟩ := execConfig_next h
      · exact .answered _ hq
      · exact .answered _ hq
      · exact .answered _ hq
      · exact .configured hq hd hst hfits hmax hcount
    | submit b cb =>
      obtain ⟨c, -, rfl⟩ | ⟨hst, hbusy, hlong, rfl⟩ := execSubmit_next h
      · exact .answered c hq
      · exact .submitted hq hd hst hbusy hlong
    | isbusy =>
      obtain ⟨c, rfl⟩ := execIsbusy_next h
      exact .answered c hq
    | shutdown =>
      obtain ⟨-, rfl⟩ | ⟨hst, hbusy, rfl⟩ := execShutdown_next h
      · exact .answered _ hq
      · exact .shutDown hq hd hst hbusy
    | strided | localRemainder | ack | done | rsp => cases hp
  · rw [deliver_eq_stray fun i hd hp => hlegal ⟨i, hd, hp⟩, stray, if_pos rfl] at h
    cases h
    exact .answered _ hq

/-- The event port takes completions only. -/
theorem deliver_hostEvent_next {x : Word} (h : deliver .hostEvent x s = .next t) :
    ∃ cb b, t = s.tell (.completion cb b) := by
  cases hd : decode x with
  | reject r => simp [deliver, hd, stray] at h
  | instr i =>
    cases i with
    | done cb b =>
      rw [deliver_message hd (by rfl)] at h
      cases h
      exact ⟨cb, b, rfl⟩
    | config | submit | isbusy | shutdown | strided | localRemainder | ack | rsp =>
      simp [deliver, hd, stray, Instr.port] at h

/-- The response port takes responses only. -/
theorem deliver_hostResponse_next {x : Word} (h : deliver .hostResponse x s = .next t) :
    ∃ b c, t = s.tell (.response (encode (.rsp b c))) := by
  cases hd : decode x with
  | reject r => simp [deliver, hd, stray] at h
  | instr i =>
    cases i with
    | rsp b c =>
      rw [deliver_message hd (by rfl)] at h
      cases h
      exact ⟨b, c, rfl⟩
    | config | submit | isbusy | shutdown | strided | localRemainder | ack | done =>
      simp [deliver, hd, stray, Instr.port] at h

theorem transition_of_host (he : enabled .host s = true) (h : perform .host s = .next t) : Transition s .host t := by
  cases hq : s.hostq with
  | nil => simp [enabled, hostEnabled, hq] at he
  | cons a q =>
    cases a with
    | word w => exact transition_of_host_word hq ((perform_host_word hq).symm.trans h)
    | waitDone =>
      cases hev : s.evq with
      | nil => simp [enabled, hostEnabled, hq, hev] at he
      | cons x e =>
        rw [perform_host_wait hq hev] at h
        obtain ⟨cb, b, rfl⟩ := deliver_hostEvent_next h
        exact .completed cb b hq hev
    | bind b c =>
      rw [perform_host_bind hq] at h
      obtain ⟨hbuf, rfl⟩ := hostBind_next h
      exact .bound hq hbuf
    | write a v =>
      rw [perform_host_write hq] at h
      obtain ⟨⟨u, hu⟩, ⟨hlent, rfl⟩ | ⟨hlent, rfl⟩⟩ := hostWrite_next h
      · exact .spoilt hq hu hlent
      · exact .wrote hq hu hlent
    | read a =>
      rw [perform_host_read hq] at h
      obtain ⟨v, ht⟩ := hostRead_next h
      rw [ht]
      exact .read v _ hq

theorem transition_of_collect {n : Nat} (he : enabled (.collect n) s = true) (h : perform (.collect n) s = .next t) :
    Transition s (.collect n) t := by
  have hn : n < s.ackq.length := of_decide_eq_true he
  rw [perform_collect (List.getElem?_eq_getElem hn)] at h
  obtain ⟨id, -, hack⟩ := deliver_report_next h
  obtain ⟨hst, ⟨hpack, rfl⟩ | ⟨hpack, hdist, hr⟩ | ⟨hpack, hlocal, rfl⟩⟩ := execAck_next hack
  · exact .counted hn hst hpack
  · obtain ⟨b, hbuf, hphase, rfl⟩ | ⟨hphase, rfl⟩ := releaseDist_next hr
    · exact .nextRound hn hdist hpack hphase hbuf
    · exact .lastRound hn hdist hpack hphase
  · exact .roundsOver hn hlocal hpack

/-- What a move can do, when it goes on. -/
theorem perform_next {m : Move} (h : perform m s = .next t) : Transition s m t := by
  cases he : enabled m s with
  | false => rw [perform_disabled he] at h; cases h; exact .disabled he
  | true =>
    cases m with
    | host => exact transition_of_host he h
    | command w | receive w | work w | report w => exact .worked rfl (lt_nt_of_enabled rfl he) (perform_atWork rfl h)
    | collect n => exact transition_of_collect he h
    | reorder =>
      obtain ⟨hst, hrk⟩ : s.st = .reord ∧ s.rk < s.size := by simpa [enabled] using he
      rw [perform_reorder hst hrk] at h
      obtain ⟨-, rfl⟩ | ⟨-, b, xr, yr, xi, yi, hbuf, hxr, hyr, hxi, hyi, rfl⟩ := reorderStep_next h
      · exact .passed hst hrk
      · exact .exchanged hst hrk hbuf hxr hyr hxi hyi
    | notify =>
      obtain ⟨⟨hst, hrk⟩, hn⟩ : (s.st = .reord ∧ s.rk = s.size) ∧ s.notified = false := by simpa [enabled] using he
      rw [perform_notify hst hrk hn] at h
      obtain ⟨b, hbuf, rfl⟩ := notify_next h
      exact .notified hst hrk hbuf
    | toIdle =>
      obtain ⟨hst, hn⟩ : s.st = .reord ∧ s.notified = true := by simpa [enabled] using he
      rw [perform_toIdle hst hn] at h
      cases h
      exact .wentIdle hst hn
    | response =>
      obtain ⟨x, hx⟩ := Option.isSome_iff_exists.mp he
      rw [perform_response hx] at h
      obtain ⟨b, c, rfl⟩ := deliver_hostResponse_next h
      exact .responded b c hx

/-- What a scheduled step can do, when it goes on. -/
theorem step_scheduled_next {m : Move} {ms : List Move} (hs : s.sched = m :: ms) (h : step s = .next t) :
    Transition { s with sched := ms } m t :=
  perform_next ((step_scheduled hs).symm.trans h)

/-- What no move breaks, and does not depend on the schedule and the count of draws, no step breaks. -/
theorem step_keeps {P : State → Prop} (hown : ∀ s ms n, P s → P { s with sched := ms, draws := n })
    (hmove : ∀ m s t, P s → perform m s = .next t → P t) (hs : P s) (h : step s = .next t) : P t := by
  obtain ⟨m, ms, -, he⟩ | ⟨-, m, -, he⟩ | ⟨-, -, he⟩ := step_cases s <;> rw [he] at h
  · exact hmove m _ t (hown s ms s.draws hs) h
  · exact hmove m _ t (hown s s.sched (s.draws + 1) hs) h
  · cases h; exact hs

end

end Sys2Proof.Machine
end

section
/-! PROOFS. What the steps of the machine write: BUSY, the LUT and the sizes, the descriptors, the completions and the
responses (10_state.md R20, R31, R42, R46; 42_coordinator.md R184). -/

namespace Sys2Proof.Machine

/-- BUSY and ST are set together by SUBMIT, CONFIG, SHUTDOWN and the return to idle; a barrier release moves ST on inside
the transform. -/
theorem perform_keeps_busy {m : Move} {s t : State}
    (hs : s.busy = true ↔ s.st = .dist ∨ s.st = .localPhase ∨ s.st = .reord) (h : perform m s = .next t) :
    t.busy = true ↔ t.st = .dist ∨ t.st = .localPhase ∨ t.st = .reord := by
  cases perform_next h with
  | worked hm hw ha => rw [ha.busy, ha.st]; exact hs
  | configured => simp [State.construct]
  | wentIdle => simp [toIdle]
  | shutDown hq hd hst hbusy => simp [State.release, hbusy]
  | submitted => simp [State.accept, State.setBusy]
  | lastRound hn hst | roundsOver hn hst => simp [releaseLocal, hs, hst]
  | notified => split <;> exact hs
  | disabled | answered | completed | bound | spoilt | wrote | read | counted | nextRound | passed | exchanged
  | responded => exact hs

/-- Settles O49. -/
theorem busyTellsATransform : Obligations.BusyTellsATransform := fun _ _ hs h =>
  step_keeps (P := fun s => s.busy = true ↔ s.st = .dist ∨ s.st = .localPhase ∨ s.st = .reord)
    (fun _ _ _ h => h) (fun _ _ _ => perform_keeps_busy) hs h

/-- Settles O50. -/
theorem whoWritesBusy : Obligations.WhoWritesBusy := by
  intro s t m ms hs h hne
  cases step_scheduled_next hs h with
  | worked hm hw ha => exact absurd ha.busy.symm hne
  | configured hq hd => exact .inr ⟨rfl, .inr ⟨rfl, _, _, _, _, hq, hd⟩⟩
  | submitted hq hd hst hbusy hlong => exact .inl ⟨rfl, rfl, _, _, _, _, hq, hd, hlong⟩
  | wentIdle => exact .inr ⟨rfl, .inl rfl⟩
  | notified => split at hne <;> exact absurd rfl hne
  | disabled | answered | shutDown | completed | bound | spoilt | wrote | read | counted | nextRound | lastRound
  | roundsOver | passed | exchanged | responded => exact absurd rfl hne

/-- Settles O51. -/
theorem lutAndSizesAreConstant : Obligations.LutAndSizesAreConstant := by
  intro s t m ms hs h
  cases step_scheduled_next hs h with
  | worked hm hw ha => exact .inl ⟨ha.cosTab, ha.sinTab, ha.nu, ha.nt, ha.sul⟩
  | configured hq hd hst => exact .inr ⟨rfl, _, _, hq, .inl ⟨hst, _, _, hd⟩⟩
  | shutDown hq hd hst => exact .inr ⟨rfl, _, _, hq, .inr ⟨hst, hd⟩⟩
  | notified => split <;> exact .inl ⟨rfl, rfl, rfl, rfl, rfl⟩
  | disabled | answered | submitted | completed | bound | spoilt | wrote | read | counted | nextRound | lastRound
  | roundsOver | passed | exchanged | wentIdle | responded => exact .inl ⟨rfl, rfl, rfl, rfl, rfl⟩

/-- A move of worker `v` is one of the four. -/
theorem eq_of_workerOf {m : Move} {v : Nat} (h : m.workerOf = some v) :
    m = .command v ∨ m = .receive v ∨ m = .work v ∨ m = .report v := by
  cases m <;> simp_all [Move.workerOf]

/-- Settles O52: a move that writes descriptors is the host's, or it is a worker's and leaves those of the others. -/
theorem descriptorsArePrivate : Obligations.DescriptorsArePrivate := by
  intro s t m ms v hs h hcommand hreceive hwork hreport hhost
  cases step_scheduled_next hs h with
  | @worked _ w _ hm hw ha =>
    refine (ha.others v fun hv => ?_).1
    subst hv
    obtain rfl | rfl | rfl | rfl := eq_of_workerOf hm
    · exact hcommand rfl
    · exact hreceive rfl
    · exact hwork rfl
    · exact hreport rfl
  | answered | configured | submitted | shutDown | completed | bound | spoilt | wrote | read => exact absurd rfl hhost
  | notified => split <;> rfl
  | disabled | counted | nextRound | lastRound | roundsOver | passed | exchanged | wentIdle | responded => rfl

theorem Memory.wf_swapEls {m : Memory} (h : Handle) (k ib : Nat) (xr yr xi yi : Sample) (hm : m.wf = true) :
    (swapEls m h k ib xr yr xi yi).wf = true :=
  wf_writeEl _ _ (wf_writeEl _ _ (wf_writeEl _ _ (wf_writeEl _ _ hm)))

theorem State.wf_redraw {s : State} (h : Handle) (hm : s.mem.wf = true) : (s.redraw h).mem.wf = true :=
  Memory.wf_put hm

/-- Every move keeps the canonical form of the memory. -/
theorem perform_keeps_wf {m : Move} {s t : State} (hs : s.mem.wf = true) (h : perform m s = .next t) :
    t.mem.wf = true := by
  cases perform_next h with
  | worked hm hw ha => exact ha.memory hs
  | bound => exact Memory.wf_put hs
  | spoilt => exact State.wf_redraw _ hs
  | wrote => exact Memory.wf_writeEl _ _ hs
  | exchanged => exact Memory.wf_swapEls _ _ _ _ _ _ _ hs
  | notified => split; exacts [State.wf_redraw _ hs, hs]
  | disabled | answered | configured | submitted | shutDown | completed | read | counted | nextRound | lastRound
  | roundsOver | passed | wentIdle | responded => exact hs

/-- Settles O53. -/
theorem memoryStaysCanonical : Obligations.MemoryStaysCanonical := fun _ _ hs h =>
  step_keeps (P := fun s => s.mem.wf = true) (fun _ _ _ h => h) (fun _ _ _ => perform_keeps_wf) hs h

/-- Settles O46. -/
theorem onlyNotifyEmitsDone : Obligations.OnlyNotifyEmitsDone := by
  intro s t m ms hs h
  cases step_scheduled_next hs h with
  | worked hm hw ha => exact .inl ha.evq
  | completed cb b hq he => exact .inr (.inl ⟨rfl, by simp only [State.tell]; rw [he]; rfl⟩)
  | @notified b hst hrk hbuf =>
    refine .inr (.inr ⟨rfl, rfl, rfl, b, hbuf, ?_⟩)
    split <;> rfl
  | disabled | answered | configured | submitted | shutDown | bound | spoilt | wrote | read | counted | nextRound
  | lastRound | roundsOver | passed | exchanged | wentIdle | responded => exact .inl rfl

/-- The event queue holds completions only (30_encoding.md R103). -/
theorem perform_keeps_events {m : Move} {s t : State} (hs : ∀ x ∈ s.evq, ∃ cb h, x = encode (.done cb h))
    (h : perform m s = .next t) : ∀ x ∈ t.evq, ∃ cb h, x = encode (.done cb h) := by
  cases perform_next h with
  | worked hm hw ha => rw [ha.evq]; exact hs
  | completed cb b hq he => exact fun x hx => hs x (he ▸ List.mem_cons_of_mem _ hx)
  | @notified b hst hrk hbuf =>
    have hnew : ∀ x ∈ s.evq ++ [encode (.done s.cb b)], ∃ cb h, x = encode (.done cb h) := by
      simp only [List.mem_append, List.mem_singleton]
      rintro x (hx | rfl)
      exacts [hs x hx, ⟨_, _, rfl⟩]
    split <;> exact hnew
  | disabled | answered | configured | submitted | shutDown | bound | spoilt | wrote | read | counted | nextRound
  | lastRound | roundsOver | passed | exchanged | wentIdle | responded => exact hs

/-! ### Responses -/

theorem Status.code_le_six (c : Status) : c.code ≤ 6 := by cases c <;> decide

/-- No move leaves a word on the response port. -/
theorem perform_keeps_rsp {m : Move} {s t : State} (hs : s.rsp = none) (h : perform m s = .next t) : t.rsp = none := by
  cases perform_next h with
  | worked hm hw ha => exact ha.rsp.trans hs
  | responded b c hx => simp [hs] at hx
  | notified => split <;> exact hs
  | disabled | answered | configured | submitted | shutDown | completed | bound | spoilt | wrote | read | counted
  | nextRound | lastRound | roundsOver | passed | exchanged | wentIdle => exact hs

/-- Settles O8: a host word ends in one `respond`; a completion or a datum is no response, and no other move tells the host
anything. -/
theorem oneResponsePerHostWord : Obligations.OneResponsePerHostWord := by
  intro s t m ms hs hrsp h
  refine ⟨perform_keeps_rsp (s := { s with sched := ms }) hrsp ((step_scheduled hs).symm.trans h), ?_⟩
  cases step_scheduled_next hs h with
  | answered c hq => exact ⟨fun _ _ _ _ => ⟨c.code, c.code_le_six, rfl⟩, fun hno => absurd ⟨rfl, hq⟩ (hno _ _)⟩
  | configured hq | submitted hq | shutDown hq =>
    exact ⟨fun _ _ _ _ => ⟨Status.ok.code, Status.ok.code_le_six, rfl⟩, fun hno => absurd ⟨rfl, hq⟩ (hno _ _)⟩
  | completed cb b hq => exact ⟨fun w q _ hw => by simp [hw] at hq, fun _ => .inr ⟨_, rfl, fun _ => nofun⟩⟩
  | read v n hq => exact ⟨fun w q _ hw => by simp [hw] at hq, fun _ => .inr ⟨_, rfl, fun _ => nofun⟩⟩
  | bound hq | spoilt hq | wrote hq => exact ⟨fun w q _ hw => by simp [hw] at hq, fun _ => .inl rfl⟩
  | worked hm hw ha =>
    refine ⟨fun _ _ hh => ?_, fun _ => .inl ha.seen⟩
    subst hh
    cases hm
  | disabled he =>
    refine ⟨fun w q hh hq => ?_, fun _ => .inl rfl⟩
    subst hh
    simp [enabled, hostEnabled, hq] at he
  | notified => exact ⟨nofun, fun _ => .inl (by split <;> rfl)⟩
  | responded b c hx => simp [hrsp] at hx
  | counted | nextRound | lastRound | roundsOver | passed | exchanged | wentIdle => exact ⟨nofun, fun _ => .inl rfl⟩

theorem field_status_encode_ok (b : Bool) : field (encode (.rsp b Status.ok.code)) 7 0 = 0 := by cases b <;> decide

/-- Settles O9: of what a host word can do, only an answer that changes nothing has a status other than OK. -/
theorem rejectedCommandChangesNothing : Obligations.RejectedCommandChangesNothing := by
  intro s t ms q w r hs hq h hseen hstatus
  have hok : ∀ (l : List HostNote) (b : Bool),
      l ++ [.response (encode (.rsp b Status.ok.code))] ≠ l ++ [.response r] := by
    intro l b heq
    simp only [List.append_cancel_left_eq, List.cons.injEq, HostNote.response.injEq, and_true] at heq
    exact hstatus (heq ▸ field_status_encode_ok b)
  cases step_scheduled_next hs h with
  | answered c hq' =>
    obtain ⟨rfl, rfl⟩ : w = _ ∧ q = _ := by simpa [hq] using hq'
    rw [← hseen]
    rfl
  | configured hq' | submitted hq' | shutDown hq' => exact absurd hseen (hok _ _)
  | completed _ _ hq' | bound hq' | spoilt hq' | wrote hq' | read _ _ hq' => simp [hq] at hq'
  | worked hm => cases hm
  | disabled he => simp [enabled, hostEnabled, hq] at he

/-! ### What CONFIG fixes -/

/-- The engine CONFIG makes is configured well (R9, R10). -/
theorem State.configuredOk_construct {nu : Nat} {hint : Int} (hfits : ceilpow2 hint ≤ 2 ^ nu / 2)
    (hmax : nu ≤ Config.nuMax) (hcount : ceilpow2 hint ≤ Config.ntMax) (s : State) :
    (s.construct nu (ceilpow2 hint)).ConfiguredOk where
  nu_low := by
    have h2 := two_le_ceilpow2 hint
    have hpow : 2 ^ 2 ≤ 2 ^ nu := by omega
    exact (Nat.pow_le_pow_iff_right one_lt_two).mp hpow
  nu_high := hmax
  count := workerCountOk_iff.mpr ⟨two_le_ceilpow2 hint, (two_pow_log2_ceilpow2 hint).symm, hfits⟩
  nt_high := hcount
  sul := rfl
  cos := rfl
  sin := rfl
  workers := by simp [State.construct]
  channels := by simp [State.construct]

/-- What is configured is kept where the sizes and the LUT are, and the banks keep their lengths. -/
theorem State.ConfiguredOk.congr {s t : State} (h : s.ConfiguredOk) (hnu : t.nu = s.nu) (hnt : t.nt = s.nt)
    (hsul : t.sul = s.sul) (hcos : t.cosTab = s.cosTab) (hsin : t.sinTab = s.sinTab)
    (hworkers : t.workers.length = s.workers.length) (hchannels : t.cmdq.length = s.cmdq.length) : t.ConfiguredOk where
  nu_low := hnu ▸ h.nu_low
  nu_high := hnu ▸ h.nu_high
  count := by rw [hnu, hnt]; exact h.count
  nt_high := hnt ▸ h.nt_high
  sul := by rw [hsul, hnt]; exact h.sul
  cos := by rw [hcos, hnu]; exact h.cos
  sin := by rw [hsin, hnu]; exact h.sin
  workers := by rw [hworkers, hnt]; exact h.workers
  channels := by rw [hchannels, hnt]; exact h.channels

theorem State.length_cmdq_broadcast {s : State} (m : Instr) (h : s.cmdq.length = s.nt) :
    (s.broadcast m).cmdq.length = s.cmdq.length := by
  simp [State.broadcast, h]

/-- Every move keeps what CONFIG fixes. -/
theorem perform_keeps_configured {m : Move} {s t : State} (hs : s.st ≠ .unconf → s.ConfiguredOk)
    (h : perform m s = .next t) (ht : t.st ≠ .unconf) : t.ConfiguredOk := by
  cases perform_next h with
  | worked hm hw ha =>
    have hc := hs (ha.st ▸ ht)
    exact hc.congr ha.nu ha.nt ha.sul ha.cosTab ha.sinTab (ha.workers (hc.workers.symm ▸ hw))
      (ha.channels (hc.channels.symm ▸ hw))
  | configured hq hd hst hfits hmax hcount =>
    exact (State.configuredOk_construct hfits hmax hcount _).congr rfl rfl rfl rfl rfl rfl rfl
  | submitted hq hd hst =>
    exact (hs hst).congr rfl rfl rfl rfl rfl rfl (State.length_cmdq_broadcast _ (hs hst).channels)
  | shutDown => exact absurd rfl ht
  | nextRound hn hst | lastRound hn hst =>
    have hc := hs (hst ▸ nofun)
    exact hc.congr rfl rfl rfl rfl rfl rfl (State.length_cmdq_broadcast _ hc.channels)
  | roundsOver hn hst => exact (hs (hst ▸ nofun)).congr rfl rfl rfl rfl rfl rfl rfl
  | wentIdle hst => exact (hs (hst ▸ nofun)).congr rfl rfl rfl rfl rfl rfl rfl
  | notified hst => split <;> exact (hs (hst ▸ nofun)).congr rfl rfl rfl rfl rfl rfl rfl
  | disabled | answered | completed | bound | spoilt | wrote | read | counted | passed | exchanged | responded =>
    exact (hs ht).congr rfl rfl rfl rfl rfl rfl rfl

/-- Settles O54. -/
theorem configuredEngineStaysOk : Obligations.ConfiguredEngineStaysOk := fun _ _ hs h =>
  step_keeps (P := fun s => s.st ≠ .unconf → s.ConfiguredOk)
    (fun _ _ _ h hst => (h hst).congr rfl rfl rfl rfl rfl rfl rfl) (fun _ _ _ => perform_keeps_configured) hs h

end Sys2Proof.Machine
end

section
/-! PROOFS. The draws that replace the lent elements, and the host's accesses to sample memory (20_memory.md R62, R81). -/

namespace Sys2Proof.Machine

theorem Buffer.isUnbound_iff {b : Buffer} : b.isUnbound = true ↔ b.real = [] ∧ b.imag = [] := by
  simp [Buffer.isUnbound]

@[simp] theorem length_redrawSeq (n t : Nat) (l : List Sample) : (redrawSeq n t l).length = l.length :=
  List.length_mapIdx

theorem getElem?_redrawSeq (n t i : Nat) (l : List Sample) :
    (redrawSeq n t l)[i]? = l[i]?.map (fun v => if i < n then Config.freeSample (t + 2 * i) else v) := by
  simp [redrawSeq]

/-- Which of the two series of draws a sequence takes. -/
def Part.series : Part → Nat
  | .real => 0
  | .imag => 1

/-- The buffer that `State.redraw` binds in the place of `b`. -/
def Buffer.redrawn (n t : Nat) (b : Buffer) : Buffer :=
  { real := redrawSeq n t b.real, imag := redrawSeq n (t + 1) b.imag }

theorem Buffer.seq_redrawn (n t : Nat) (b : Buffer) (p : Part) :
    (b.redrawn n t).seq p = redrawSeq n (t + p.series) (b.seq p) := by
  cases p <;> rfl

theorem Buffer.isUnbound_redrawn (n t : Nat) (b : Buffer) : (b.redrawn n t).isUnbound = b.isUnbound := by
  rw [Bool.eq_iff_iff, isUnbound_iff, isUnbound_iff, ← List.length_eq_zero_iff, ← List.length_eq_zero_iff,
    ← List.length_eq_zero_iff, ← List.length_eq_zero_iff]
  simp [redrawn]

section
variable {s : State} {h : Handle} (hbound : (s.mem.lookup h.toNat).isUnbound = false)
include hbound

theorem State.lookup_redraw_self :
    (s.redraw h).mem.lookup h.toNat = (s.mem.lookup h.toNat).redrawn s.size s.draws :=
  Memory.lookup_put_self _ _ ((Buffer.isUnbound_redrawn _ _ _).trans hbound)

/-- An element after a redraw: below `N` in the buffer redrawn it is a draw, elsewhere it is what it was. -/
theorem State.readEl_redraw_self (p : Part) (i : Nat) :
    (s.redraw h).mem.readEl ⟨h, p, i⟩ = (s.mem.readEl ⟨h, p, i⟩).map
      (fun v => if i < s.size then Config.freeSample (s.draws + p.series + 2 * i) else v) := by
  simp only [Memory.readEl, lookup_redraw_self hbound, Buffer.seq_redrawn, getElem?_redrawSeq]

end

theorem State.readEl_redraw_ne {s : State} {h : Handle} {b : Addr} (hb : b.handle ≠ h) :
    (s.redraw h).mem.readEl b = s.mem.readEl b := by
  have hne : h.toNat ≠ b.handle.toNat := fun e => hb (BitVec.eq_of_toNat_eq e.symm)
  simp only [Memory.readEl, State.redraw, Memory.lookup_put_ne _ _ hne]

/-- Outside the elements the engine owns a redraw changes nothing. -/
theorem State.readEl_redraw_foreign {s : State} {h : Handle} (hbound : (s.mem.lookup h.toNat).isUnbound = false)
    {b : Addr} (hb : b.handle ≠ h ∨ s.size ≤ b.idx) : (s.redraw h).mem.readEl b = s.mem.readEl b := by
  by_cases hh : b.handle = h
  · obtain ⟨bh, p, i⟩ := b
    subst hh
    have hi : ¬ i < s.size := Nat.not_lt.mpr (hb.resolve_left (not_not_intro rfl))
    simp [State.readEl_redraw_self hbound, hi]
  · exact State.readEl_redraw_ne hh

theorem Memory.longEnough_congr {m m' : Memory} {h : Handle}
    (hlen : ∀ p, ((m'.lookup h.toNat).seq p).length = ((m.lookup h.toNat).seq p).length) (n : Nat) :
    m'.longEnough h n = m.longEnough h n := by
  have hr := hlen .real
  have hi := hlen .imag
  simp only [Buffer.seq] at hr hi
  simp only [Memory.longEnough, hr, hi]

theorem Memory.longEnough_put_ne {m : Memory} {h g : Handle} (hg : h ≠ g) (b : Buffer) (n : Nat) :
    (Memory.put m h.toNat b).longEnough g n = m.longEnough g n := by
  have hne : h.toNat ≠ g.toNat := fun e => hg (BitVec.eq_of_toNat_eq e)
  simp only [Memory.longEnough, Memory.lookup_put_ne _ _ hne]

/-- A redraw changes no length. -/
theorem State.longEnough_redraw {s : State} {h : Handle} (hbound : (s.mem.lookup h.toNat).isUnbound = false)
    (g : Handle) (n : Nat) : (s.redraw h).mem.longEnough g n = s.mem.longEnough g n := by
  by_cases hg : h = g
  · subst hg
    exact Memory.longEnough_congr
      (fun p => by rw [State.lookup_redraw_self hbound, Buffer.seq_redrawn, length_redrawSeq]) n
  · exact Memory.longEnough_put_ne hg _ n

theorem Memory.isUnbound_of_readEl {m : Memory} {a : Addr} {v : Sample} (h : m.readEl a = some v) :
    (m.lookup a.handle.toNat).isUnbound = false :=
  Buffer.isUnbound_of_seq h

theorem State.size_pos (s : State) : 0 < s.size := Nat.two_pow_pos s.nu

theorem Memory.isUnbound_of_longEnough {m : Memory} {h : Handle} {n : Nat} (hn : 0 < n)
    (hlong : m.longEnough h n = true) : (m.lookup h.toNat).isUnbound = false := by
  obtain ⟨v, hv⟩ := Memory.readEl_of_longEnough hlong hn .real
  exact Memory.isUnbound_of_readEl hv

theorem State.lent_iff {s : State} {a : Addr} : s.lent a = true ↔ s.buf = some a.handle ∧ a.idx < s.size := by
  simp [State.lent]

/-- Settles O47: by whether the element is lent, for a read and for a write. -/
theorem hostAccessToLentBuffer : Obligations.HostAccessToLentBuffer := by
  intro s ms q a u v hs hu
  have hlent : ∀ {r : List HostAct}, s.buf = some a.handle ∧ a.idx < s.size →
      ({ s with sched := ms, hostq := r } : State).lent a = true := fun h => State.lent_iff.mpr h
  have hown : ∀ {r : List HostAct}, s.buf ≠ some a.handle ∨ s.size ≤ a.idx →
      ({ s with sched := ms, hostq := r } : State).lent a = false := fun {r} h => by
    rw [← Bool.not_eq_true, State.lent_iff, not_and_or, Nat.not_lt]
    exact h
  refine ⟨fun hq => ⟨fun h => ?_, fun h => ?_⟩, fun hq => ⟨fun h => ?_, fun h => ?_⟩⟩
  · rw [step_scheduled hs, perform_host_read (s := { s with sched := ms }) hq]
    simp [hostRead, hu, hlent h, State.tell]
  · rw [step_scheduled hs, perform_host_read (s := { s with sched := ms }) hq]
    simp [hostRead, hu, hown h, State.tell]
  · have hbound := Memory.isUnbound_of_readEl hu
    rw [step_scheduled hs, perform_host_write (s := { s with sched := ms }) hq]
    refine ⟨_, by simp only [hostWrite, hu, hlent h]; rfl, rfl, fun p i x hi hx => ?_, fun b hb => ?_⟩
    · refine ⟨s.draws + p.series + 2 * i, ?_, by omega, ?_⟩
      · refine (State.readEl_redraw_self (s := { s with sched := ms, hostq := q }) hbound p i).trans ?_
        simp only [hx, Option.map_some]
        exact congrArg some (if_pos hi)
      · show s.draws + p.series + 2 * i < s.draws + 2 * s.size
        cases p <;> simp only [Part.series] <;> omega
    · exact State.readEl_redraw_foreign (s := { s with sched := ms, hostq := q }) hbound hb
  · rw [step_scheduled hs, perform_host_write (s := { s with sched := ms }) hq]
    exact ⟨_, by simp only [hostWrite, hu, hown h]; rfl, rfl, Memory.readEl_writeEl_self hu,
      fun b hb => Memory.readEl_writeEl_ne hu hb⟩

/-- Settles O41: the step permutes both sequences by the exchange of `k` and `bitrev k`, or by nothing. -/
theorem reorderStepExchanges : Obligations.ReorderStepExchanges := by
  intro s ms h hs hst hrk hbuf hlong
  obtain ⟨m, hstep, hperm⟩ := perform_reorder_permutes (s := { s with sched := ms }) hst hrk hbuf hlong
  refine ⟨_, (step_scheduled hs).trans hstep, rfl, fun hlt p => ?_, fun b hb => ?_⟩
  · have hmoved := fun i => hperm.moved p i
    simp only [reorderSwap_of_lt hlt] at hmoved
    exact ⟨(hmoved _).trans (by rw [Equiv.swap_apply_left]), (hmoved _).trans (by rw [Equiv.swap_apply_right])⟩
  · by_cases hh : b.handle = h
    · obtain ⟨bh, p, i⟩ := b
      subst hh
      refine (hperm.moved p i).trans (congrArg _ ?_)
      obtain hle | hlt := le_or_gt (bitrev s.rk s.nu) s.rk
      · simp [reorderSwap_of_le hle]
      · obtain ⟨hk, hrev⟩ : i ≠ s.rk ∧ i ≠ bitrev s.rk s.nu := by simpa [Nat.not_le.mpr hlt] using hb
        simp [reorderSwap_of_lt hlt, Equiv.swap_apply_of_ne_of_ne hk hrev]
    · exact hperm.others b hh

end Sys2Proof.Machine
end

section
/-! PROOFS. One butterfly, and where a worker command stops (41_worker.md R140; 93_implementation_defined.md U2, U3). -/

namespace Sys2Proof.Machine

/-- A write leaves every existing element in existence. -/
theorem Memory.exists_readEl_writeEl {m : Memory} {a b : Addr} (ha : ∃ u, m.readEl a = some u)
    (hb : ∃ u, m.readEl b = some u) (v : Sample) : ∃ u, (m.writeEl a v).readEl b = some u := by
  obtain ⟨u, hu⟩ := ha
  rw [Memory.readEl_writeEl hu]
  split
  · exact ⟨v, rfl⟩
  · exact hb

/-- What no write to an existing leg changes, the four writes of a butterfly do not change. -/
theorem writeLegs_keeps {α : Type} {f : Memory → α} {m : Memory} {h : Handle} {k1 k2 : Nat} (r : Legs)
    (hlegs : ∀ p k, k = k1 ∨ k = k2 → ∃ u, m.readEl ⟨h, p, k⟩ = some u)
    (hf : ∀ (m' : Memory) (p : Part) (k : Nat) (v u : Sample), k = k1 ∨ k = k2 → m'.readEl ⟨h, p, k⟩ = some u →
      f (m'.writeEl ⟨h, p, k⟩ v) = f m') : f (writeLegs m h k1 k2 r) = f m := by
  have hstep : ∀ (m' : Memory) (p : Part) (k : Nat) (v : Sample), k = k1 ∨ k = k2 →
      (∀ p k, k = k1 ∨ k = k2 → ∃ u, m'.readEl ⟨h, p, k⟩ = some u) →
      f (m'.writeEl ⟨h, p, k⟩ v) = f m' ∧
        ∀ q l, l = k1 ∨ l = k2 → ∃ u, (m'.writeEl ⟨h, p, k⟩ v).readEl ⟨h, q, l⟩ = some u := by
    intro m' p k v hk hex
    obtain ⟨u, hu⟩ := hex p k hk
    exact ⟨hf m' p k v u hk hu, fun q l hl => Memory.exists_readEl_writeEl ⟨u, hu⟩ (hex q l hl) v⟩
  obtain ⟨f1, e1⟩ := hstep m .real k2 r.real2 (.inr rfl) hlegs
  obtain ⟨f2, e2⟩ := hstep _ .imag k2 r.imag2 (.inr rfl) e1
  obtain ⟨f3, e3⟩ := hstep _ .real k1 r.real1 (.inl rfl) e2
  exact (hstep _ .imag k1 r.imag1 (.inl rfl) e3).1.trans (f3.trans (f2.trans f1))

section
variable {m : Memory} {h : Handle} {k1 k2 : Nat} {ar ai br bi : Sample}
  (h1 : m.readEl ⟨h, .real, k1⟩ = some ar) (h2 : m.readEl ⟨h, .imag, k1⟩ = some ai)
  (h3 : m.readEl ⟨h, .real, k2⟩ = some br) (h4 : m.readEl ⟨h, .imag, k2⟩ = some bi)
include h1 h2 h3 h4

theorem exists_readEl_leg (p : Part) (k : Nat) (hk : k = k1 ∨ k = k2) : ∃ u, m.readEl ⟨h, p, k⟩ = some u := by
  obtain rfl | rfl := hk <;> cases p
  exacts [⟨ar, h1⟩, ⟨ai, h2⟩, ⟨br, h3⟩, ⟨bi, h4⟩]

/-- What a butterfly leaves alone: other buffers, and every index but those of its legs. -/
theorem readEl_writeLegs_ne (r : Legs) {b : Addr} (hb : b.handle ≠ h ∨ (b.idx ≠ k1 ∧ b.idx ≠ k2)) :
    (writeLegs m h k1 k2 r).readEl b = m.readEl b := by
  refine writeLegs_keeps (f := fun m => m.readEl b) r (exists_readEl_leg h1 h2 h3 h4) fun m' p k v u hk hu =>
    Memory.readEl_writeEl_ne hu ?_
  rintro rfl
  simp only [ne_eq, not_true_eq_false, false_or] at hb
  omega

/-- A butterfly changes no length. -/
theorem longEnough_writeLegs (r : Legs) (g : Handle) (n : Nat) :
    (writeLegs m h k1 k2 r).longEnough g n = m.longEnough g n :=
  writeLegs_keeps (f := fun m => m.longEnough g n) r (exists_readEl_leg h1 h2 h3 h4)
    fun _ _ _ _ _ _ hu => Memory.longEnough_writeEl hu g n

end

/-- What a butterfly writes. -/
theorem readEl_writeLegs_legs {m : Memory} {h : Handle} {k1 k2 : Nat} {r : Legs} {ar ai br bi : Sample} (hk : k1 ≠ k2)
    (h1 : m.readEl ⟨h, .real, k1⟩ = some ar) (h2 : m.readEl ⟨h, .imag, k1⟩ = some ai)
    (h3 : m.readEl ⟨h, .real, k2⟩ = some br) (h4 : m.readEl ⟨h, .imag, k2⟩ = some bi) :
    (writeLegs m h k1 k2 r).readEl ⟨h, .real, k1⟩ = some r.real1 ∧
      (writeLegs m h k1 k2 r).readEl ⟨h, .imag, k1⟩ = some r.imag1 ∧
      (writeLegs m h k1 k2 r).readEl ⟨h, .real, k2⟩ = some r.real2 ∧
      (writeLegs m h k1 k2 r).readEl ⟨h, .imag, k2⟩ = some r.imag2 := by
  simp [readEl_writeLegs hk h1 h2 h3 h4, Ne.symm hk]

/-- Settles O20. -/
theorem butterflyWritesBothLegs : Obligations.ButterflyWritesBothLegs := by
  intro w k s ar ai br bi hn2 h1 h2 h3 h4
  have hk : k ≠ k + (s.worker w).n2 := by omega
  obtain ⟨hreal1, himag1, hreal2, himag2⟩ :=
    readEl_writeLegs_legs (r := s.legsOf w k ar ai br bi) hk h1 h2 h3 h4
  exact ⟨_, bfly_eq h1 h2 h3 h4, rfl, ⟨hreal2, himag2, hreal1, himag1⟩,
    fun b hb => readEl_writeLegs_ne h1 h2 h3 h4 _ hb⟩

/-- Settles O24: both receipts test the count first, and a butterfly that goes on has found all its elements. -/
theorem workerCommandStops : Obligations.WorkerCommandStops := by
  intro s init buf
  refine ⟨fun hcount => ⟨?_, ?_⟩, fun w k p hnone => ?_⟩
  · simp [exec, execStrided, receiveStrided, hcount]
  · simp [exec, execLocalRemainder, receiveLocal, hcount]
  · obtain hf | ⟨ar, ai, br, bi, h1, h2, h3, h4, -⟩ := bfly_cases w k s
    · exact hf
    · cases p <;> simp [h1, h2, h3, h4] at hnone

end Sys2Proof.Machine
end

section
/-! PROOFS. The work of a command: how many stages it ends, and that its butterflies fit the buffer (41_worker.md R147,
R150, R153). -/

namespace Sys2Proof.Machine

/-- One stage of span `n2` and then the work `l`: the legs of the stage fit, and the rest at half the span. -/
theorem workFits_stageWork_append {size n2 : Nat} {legs : List Nat} {l : List Work} :
    workFits size n2 (stageWork legs ++ l) = true ↔ (∀ k ∈ legs, k + n2 < size) ∧ workFits size (n2 / 2) l = true := by
  induction legs with
  | nil => simp [stageWork, workFits]
  | cons k legs ih =>
    simp only [stageWork, List.map_cons, List.cons_append, workFits, Bool.and_eq_true, decide_eq_true_eq,
      List.forall_mem_cons, and_assoc] at ih ⊢
    rw [ih]

theorem stagesIn_stageWork_append (legs : List Nat) (l : List Work) :
    stagesIn (stageWork legs ++ l) = stagesIn l + 1 := by
  induction legs with
  | nil => rfl
  | cons k legs ih => exact ih

theorem workFits_stageWork {size n2 : Nat} {legs : List Nat} (h : ∀ k ∈ legs, k + n2 < size) :
    workFits size n2 (stageWork legs) = true := by
  rw [← List.append_nil (stageWork legs)]
  exact workFits_stageWork_append.mpr ⟨h, rfl⟩

theorem stagesIn_stageWork (legs : List Nat) : stagesIn (stageWork legs) = 1 := by
  rw [← List.append_nil (stageWork legs)]
  exact stagesIn_stageWork_append legs []

theorem two_pow_succ_half (q : Nat) : 2 ^ (q + 1) / 2 = 2 ^ q := by
  rw [Nat.pow_succ, Nat.mul_div_cancel _ two_pos]

/-- From span `2^q` LOCAL runs `q + 1` stages (R154). -/
theorem stagesIn_localStages {base size q fuel : Nat} (hfuel : q < fuel) :
    stagesIn (localStages base size fuel (2 ^ q)) = q + 1 := by
  obtain ⟨fuel, rfl⟩ : ∃ f, fuel = f + 1 := ⟨fuel - 1, by omega⟩
  rw [localStages_succ (Nat.two_pow_pos q).ne', stagesIn_stageWork_append]
  induction q generalizing fuel with
  | zero => simp [stagesIn]
  | succ q ih =>
    obtain ⟨fuel, rfl⟩ : ∃ f, fuel = f + 1 := ⟨fuel - 1, by omega⟩
    rw [two_pow_succ_half, localStages_succ (Nat.two_pow_pos q).ne', stagesIn_stageWork_append, ih fuel (by omega)]

/-- All stages of the `w`-th block, from span `2^q` on, fit a buffer that holds the block. -/
theorem workFits_localStages {size block w q : Nat} (fuel : Nat) (hdvd : 2 * 2 ^ q ∣ block) (hpos : 0 < block)
    (hblock : (w + 1) * block ≤ size) : workFits size (2 ^ q) (localStages (w * block) block fuel (2 ^ q)) = true := by
  induction fuel generalizing q with
  | zero => rfl
  | succ fuel ih =>
    rw [localStages_succ (Nat.two_pow_pos q).ne', workFits_stageWork_append]
    refine ⟨fun k hk => ?_, ?_⟩
    · obtain ⟨rfl, hfirst⟩ := (mem_blockLegs_iff hdvd (Nat.two_pow_pos q) hpos).mp hk
      have hlt : k < (k / block + 1) * block := Nat.lt_mul_of_div_lt (Nat.lt_succ_self _) hpos
      exact lt_of_lt_of_le (second_leg_lt hlt (hdvd.mul_left _) hfirst) hblock
    · cases q with
      | zero => simp [workFits]
      | succ q =>
        rw [two_pow_succ_half]
        exact ih ((two_mul_two_pow_dvd (Nat.lt_succ_self q)).trans ((dvd_mul_left _ 2).trans hdvd))

theorem localWork_two_pow (w m : Nat) :
    localWork w (2 ^ m) = localStages (w * (2 * 2 ^ m)) (2 * 2 ^ m) (2 ^ m) (2 ^ m) := by
  rw [localWork, Nat.mul_assoc, Nat.mul_comm (2 ^ m) 2]

theorem stagesIn_localWork (w m : Nat) : stagesIn (localWork w (2 ^ m)) = m + 1 := by
  rw [localWork_two_pow, stagesIn_localStages Nat.lt_two_pow_self]

theorem workFits_localWork {size w m : Nat} (hblock : (w + 1) * (2 * 2 ^ m) ≤ size) :
    workFits size (2 ^ m) (localWork w (2 ^ m)) = true := by
  rw [localWork_two_pow]
  exact workFits_localStages _ dvd_rfl (by positivity) hblock

end Sys2Proof.Machine
end

section
/-! PROOFS. The clauses of the invariant taken apart, and the accounting of a round (10_state.md R28, R34, R44, R45, R47). -/

namespace Sys2Proof.Machine

theorem State.idleWorker_iff {s : State} {w : Nat} :
    s.idleWorker w = true ↔ s.cmdAt w = [] ∧ (s.worker w).run = .halted ∧ (s.worker w).todo = [] := by
  simp [State.idleWorker, and_assoc]

theorem State.entersWith_iff {s : State} {d : Worker} :
    s.entersWith d = true ↔ d.nu1 = (s.nu : Int) - s.round ∧ d.n2 = 2 ^ (s.nu - s.round) := by
  simp [State.entersWith]

theorem State.leavesWith_dist {s : State} (hst : s.st = .dist) {d : Worker} {k : Nat} :
    s.leavesWith d k = true ↔
      d.nu1 - k = (s.nu : Int) - s.round - 1 ∧ d.n2 / 2 ^ k = 2 ^ (s.nu - s.round - 1) := by
  simp [State.leavesWith, hst]

theorem State.leavesWith_local {s : State} (hst : s.st = .localPhase) {d : Worker} {k : Nat} :
    s.leavesWith d k = true ↔ d.nu1 - k = -1 ∧ d.n2 / 2 ^ k = 0 := by
  simp [State.leavesWith, hst]

/-- Worker `w` has its command of the round on its channel, and will enter the round well. -/
structure State.Waits (s : State) (h : Handle) (w : Nat) : Prop where
  command : s.cmdAt w = [encode (s.roundCommand h)]
  halted : (s.worker w).run = .halted
  todo : (s.worker w).todo = []
  enters : (s.st = .dist ∧ s.phase = 2) ∨ (s.entersWith (s.worker w) = true ∧ (s.worker w).buf = h)

/-- Worker `w` is at work on its command of the round. -/
structure State.Works (s : State) (h : Handle) (w : Nat) : Prop where
  command : s.cmdAt w = []
  running : (s.worker w).run = .running
  buf : (s.worker w).buf = h
  fits : workFits s.size (s.worker w).n2 (s.worker w).todo = true
  leaves : s.leavesWith (s.worker w) (stagesIn (s.worker w).todo) = true

/-- Worker `w` has reported in this round. -/
structure State.Reported (s : State) (h : Handle) (w : Nat) : Prop where
  idle : s.idleWorker w = true
  buf : (s.worker w).buf = h
  leaves : s.leavesWith (s.worker w) 0 = true

theorem State.workerOk_iff {s : State} {h : Handle} {w : Nat} :
    s.workerOk h w = true ↔ s.Waits h w ∨ s.Works h w ∨ s.Reported h w := by
  simp only [State.workerOk, Bool.or_eq_true, Bool.and_eq_true, beq_iff_eq, List.isEmpty_iff, or_assoc]
  refine or_congr ⟨?_, fun h => ⟨⟨⟨h.1, h.2⟩, h.3⟩, h.4⟩⟩
    (or_congr ⟨?_, fun h => ⟨⟨⟨⟨h.1, h.2⟩, h.3⟩, h.4⟩, h.5⟩⟩ ⟨?_, fun h => ⟨⟨h.1, h.2⟩, h.3⟩⟩)
  · rintro ⟨⟨⟨h1, h2⟩, h3⟩, h4⟩
    exact ⟨h1, h2, h3, h4⟩
  · rintro ⟨⟨⟨⟨h1, h2⟩, h3⟩, h4⟩, h5⟩
    exact ⟨h1, h2, h3, h4, h5⟩
  · rintro ⟨⟨h1, h2⟩, h3⟩
    exact ⟨h1, h2, h3⟩

theorem State.owesReport_iff {s : State} {w : Nat} :
    s.owesReport w = true ↔ s.cmdAt w ≠ [] ∨ (s.worker w).run = .running := by
  simp [State.owesReport]

theorem State.Waits.owes {s : State} {h : Handle} {w : Nat} (hw : s.Waits h w) : s.owesReport w = true :=
  State.owesReport_iff.mpr (.inl (by rw [hw.command]; exact List.cons_ne_nil _ _))

theorem State.Works.owes {s : State} {h : Handle} {w : Nat} (hw : s.Works h w) : s.owesReport w = true :=
  State.owesReport_iff.mpr (.inr hw.running)

theorem State.owesReport_of_idle {s : State} {w : Nat} (hw : s.idleWorker w = true) : s.owesReport w = false := by
  obtain ⟨hcmd, hrun, -⟩ := State.idleWorker_iff.mp hw
  simp [State.owesReport, hcmd, hrun]

/-- A worker that owes no report has reported. -/
theorem State.reported_of_not_owes {s : State} {h : Handle} {w : Nat} (hok : s.workerOk h w = true)
    (howes : s.owesReport w = false) : s.Reported h w := by
  obtain hw | hw | hw := State.workerOk_iff.mp hok
  · exact absurd hw.owes (by simp [howes])
  · exact absurd hw.owes (by simp [howes])
  · exact hw

/-- One worker changes from owing to not owing: one less owes. -/
theorem countP_range_eq_succ {p q : Nat → Bool} {n w : Nat} (hw : w < n) (hp : p w = true) (hq : q w = false)
    (hsame : ∀ v, v ≠ w → p v = q v) : (List.range n).countP p = (List.range n).countP q + 1 := by
  induction n with
  | zero => omega
  | succ n ih =>
    simp only [List.range_succ, List.countP_append, List.countP_singleton]
    obtain rfl | hne := Nat.eq_or_lt_of_le (Nat.le_of_lt_succ hw)
    · have hrest : (List.range w).countP p = (List.range w).countP q :=
        List.countP_congr fun v hv => by rw [hsame v (List.mem_range.mp hv).ne]
      simp [hp, hq, hrest]
    · rw [ih hne, hsame n hne.ne']
      omega

end Sys2Proof.Machine
end

section
/-! PROOFS. The moves of a worker in a round: receipt, atom and report go on, touch only what the engine owns, and keep
the accounting of the round (41_worker.md R147 to R156; 20_memory.md R62). -/

namespace Sys2Proof.Machine

/-- No element that the engine does not own in `s` differs in `t` (20_memory.md R62). -/
def State.KeepsForeign (s t : State) : Prop :=
  ∀ b : Addr, s.buf ≠ some b.handle ∨ s.size ≤ b.idx → t.mem.readEl b = s.mem.readEl b

theorem State.keepsForeign_of_mem_eq {s t : State} (h : t.mem = s.mem) : s.KeepsForeign t := fun _ _ => by rw [h]

theorem State.KeepsForeign.trans {s t u : State} (h : s.KeepsForeign t) (g : t.KeepsForeign u) (hbuf : t.buf = s.buf)
    (hnu : t.nu = s.nu) : s.KeepsForeign u := fun b hb =>
  (g b (by rwa [hbuf, State.size, hnu])).trans (h b hb)

@[simp] theorem State.size_setWorker (s : State) (w : Nat) (d : Worker) : (s.setWorker w d).size = s.size := rfl

@[simp] theorem State.worker_takeCmd (s : State) (w : Nat) (cs : List Word) (v : Nat) :
    (s.takeCmd w cs).worker v = s.worker v := rfl

@[simp] theorem State.cmdAt_takeCmd_self (s : State) (w : Nat) (cs : List Word) : (s.takeCmd w cs).cmdAt w = cs :=
  State.cmdAt_setCmd_self ..

@[simp] theorem State.takeCmd_nu (s : State) (w : Nat) (cs : List Word) : (s.takeCmd w cs).nu = s.nu := rfl

@[simp] theorem State.takeCmd_nt (s : State) (w : Nat) (cs : List Word) : (s.takeCmd w cs).nt = s.nt := rfl

@[simp] theorem State.takeCmd_acting (s : State) (w : Nat) (cs : List Word) : (s.takeCmd w cs).acting = w := rfl

@[simp] theorem State.size_takeCmd (s : State) (w : Nat) (cs : List Word) : (s.takeCmd w cs).size = s.size := rfl

theorem receiveOnly_of_strided {c : Word} {init : Bool} {h : Handle} (hd : decode c = .instr (.strided init h))
    (s : State) : receiveOnly c s = receiveStrided s.acting init h s := by
  simp only [receiveOnly, hd]

theorem receiveOnly_of_local {c : Word} (hd : decode c = .instr .localRemainder) (s : State) :
    receiveOnly c s = receiveLocal s.acting s := by
  simp only [receiveOnly, hd]

theorem receiveStrided_ok {s : State} (hcount : workerCountOk s.nu s.nt = true) (w : Nat) (init : Bool) (h : Handle) :
    receiveStrided w init h s = .next (s.beginWork w (stridedDescriptor init h s.nu (s.worker w))
      (stageWork (stridedLegs s.size s.nt (stridedDescriptor init h s.nu (s.worker w)).n2 w))) := by
  simp [receiveStrided, hcount]

theorem receiveLocal_ok {s : State} (hcount : workerCountOk s.nu s.nt = true) (w : Nat) :
    receiveLocal w s = .next (s.beginWork w (s.worker w) (localWork w (s.worker w).n2)) := by
  simp [receiveLocal, hcount]

/-- The phase of a round, and its number: `PHASE` is `2^r`, `r` from 1 to `SUL` (10_state.md R32, R42). -/
structure State.PhaseOk (s : State) (r : Nat) : Prop where
  low : 1 ≤ r
  high : r ≤ s.sul
  phase : s.phase = 2 ^ r

theorem State.round_dist {s : State} {r : Nat} (hp : s.PhaseOk r) (hst : s.st = .dist) : s.round = r := by
  rw [State.round, if_pos hst, hp.phase, Nat.log2_two_pow]

theorem State.round_local {s : State} (hst : s.st = .localPhase) : s.round = s.sul + 1 := by
  simp [State.round, hst]

theorem State.ConfiguredOk.sul_lt {s : State} (h : s.ConfiguredOk) : s.sul < s.nu := by
  rw [h.sul]
  exact (block_eq_two_pow h.count).1

/-- `NT = 2^SUL` (10_state.md R33). -/
theorem State.ConfiguredOk.nt_eq {s : State} (h : s.ConfiguredOk) : s.nt = 2 ^ s.sul := by
  rw [h.sul]
  exact (workerCountOk_iff.mp h.count).2.1

section
variable {s : State} {h : Handle} {w : Nat}

/-- In a STRIDED round the descriptor a worker works with, loaded in the first round, is that of the round. -/
theorem State.Waits.strided_enters (hw : s.Waits h w) (hst : s.st = .dist) :
    s.entersWith (stridedDescriptor (s.phase == 2) h s.nu (s.worker w)) = true ∧
      (stridedDescriptor (s.phase == 2) h s.nu (s.worker w)).buf = h := by
  by_cases hphase : s.phase = 2
  · have hr : s.round = 1 := by
      rw [State.round, if_pos hst, hphase]
      rfl
    simp [stridedDescriptor, hphase, Worker.load, State.entersWith_iff, hr]
  · simpa [stridedDescriptor, hphase] using hw.enters.resolve_left fun h => hphase h.2

/-- A worker whose command is taken up is at work on it, if the work fits and leaves the round well. -/
theorem State.works_beginWork {d : Worker} {l : List Work} (hbuf : d.buf = h) (hfits : workFits s.size d.n2 l = true)
    (hleaves : s.leavesWith d (stagesIn l) = true) : ((s.takeCmd w []).beginWork w d l).Works h w where
  command := State.cmdAt_takeCmd_self ..
  running := by simp
  buf := by simpa using hbuf
  fits := by simpa using hfits
  leaves := by
    rw [State.beginWork_eq, State.worker_setWorker_self]
    exact hleaves

/-- The receipt of STRIDED in a round. -/
theorem State.Waits.receive_strided {r : Nat} (hw : s.Waits h w) (hc : s.ConfiguredOk) (hst : s.st = .dist)
    (hp : s.PhaseOk r) (hlt : w < s.nt) :
    ∃ t, perform (.receive w) s = .next t ∧ t.Works h w ∧ t.mem = s.mem ∧ t.ackq = s.ackq := by
  have hcmd : s.cmdAt w = [encode (.strided (s.phase == 2) h)] := by simpa [State.roundCommand, hst] using hw.command
  obtain ⟨henters, hbuf⟩ := hw.strided_enters hst
  obtain ⟨hnu1, hn2⟩ := State.entersWith_iff.mp henters
  have hlow : 1 ≤ s.round := State.round_dist hp hst ▸ hp.low
  have hr : s.round < s.nu := lt_of_le_of_lt (State.round_dist hp hst ▸ hp.high) hc.sul_lt
  have hfits : ∀ k ∈ stridedLegs s.size s.nt (2 ^ (s.nu - s.round)) w, k + 2 ^ (s.nu - s.round) < s.size :=
    fun k hk => by
      have hdvd := two_mul_two_pow_dvd (show s.nu - s.round < s.nu by omega)
      obtain ⟨hk', hfirst, -⟩ := (mem_stridedLegs_iff hlt hdvd (Nat.two_pow_pos _)).mp hk
      exact second_leg_lt hk' hdvd hfirst
  refine ⟨_, (perform_receive hlt hw.halted hcmd).trans ((receiveOnly_of_strided (decode_encode rfl) _).trans
    (receiveStrided_ok (s := s.takeCmd w []) hc.count _ _ _)), State.works_beginWork hbuf ?_ ?_, rfl, rfl⟩
  · simpa [hn2] using workFits_stageWork hfits
  · rw [stagesIn_stageWork]
    refine (State.leavesWith_dist hst).mpr ⟨congrArg (· - 1) hnu1, ?_⟩
    rw [State.worker_takeCmd, State.takeCmd_nu, State.takeCmd_acting, hn2, Nat.pow_div (by omega) two_pos]

/-- The receipt of LOCAL in its round. -/
theorem State.Waits.receive_local (hw : s.Waits h w) (hc : s.ConfiguredOk) (hst : s.st = .localPhase) (hlt : w < s.nt) :
    ∃ t, perform (.receive w) s = .next t ∧ t.Works h w ∧ t.mem = s.mem ∧ t.ackq = s.ackq := by
  have hcmd : s.cmdAt w = [encode .localRemainder] := by simpa [State.roundCommand, hst] using hw.command
  obtain ⟨henters, hbuf⟩ := hw.enters.resolve_left fun h => by simp [hst] at h
  obtain ⟨hnu1, hn2⟩ := State.entersWith_iff.mp henters
  rw [State.round_local hst] at hnu1 hn2
  have hsul := hc.sul_lt
  have hblock : (w + 1) * (2 * 2 ^ (s.nu - (s.sul + 1))) ≤ s.size := by
    have htotal : s.nt * 2 ^ (s.nu - s.sul) = s.size := by
      rw [hc.nt_eq, ← Nat.pow_add, Nat.add_sub_cancel' hsul.le, State.size]
    rw [← Nat.pow_succ', Nat.succ_eq_add_one, show s.nu - (s.sul + 1) + 1 = s.nu - s.sul by omega, ← htotal]
    exact Nat.mul_le_mul_right _ hlt
  refine ⟨_, (perform_receive hlt hw.halted hcmd).trans ((receiveOnly_of_local (decode_encode rfl) _).trans
    (receiveLocal_ok (s := s.takeCmd w []) hc.count _)), State.works_beginWork hbuf ?_ ?_, rfl, rfl⟩
  · simpa [hn2] using workFits_localWork hblock
  · rw [State.worker_takeCmd, State.takeCmd_acting, hn2, stagesIn_localWork]
    refine (State.leavesWith_local hst).mpr ⟨by rw [hnu1]; omega, ?_⟩
    rw [hn2, Nat.pow_succ, ← Nat.div_div_eq_div_mul, Nat.div_self (Nat.two_pow_pos _)]

/-- A butterfly whose legs lie in the lent buffer goes on and touches nothing else. -/
theorem bfly_ok {k : Nat} (hlong : s.mem.longEnough (s.worker w).buf s.size = true)
    (hk : k + (s.worker w).n2 < s.size) :
    ∃ m n, bfly w k s = .next { s with mem := m, draws := n } ∧ (∀ g n, m.longEnough g n = s.mem.longEnough g n) ∧
      ∀ b : Addr, b.handle ≠ (s.worker w).buf ∨ s.size ≤ b.idx → m.readEl b = s.mem.readEl b := by
  obtain ⟨ar, h1⟩ := Memory.readEl_of_longEnough hlong (show k < s.size by omega) .real
  obtain ⟨ai, h2⟩ := Memory.readEl_of_longEnough hlong (show k < s.size by omega) .imag
  obtain ⟨br, h3⟩ := Memory.readEl_of_longEnough hlong hk .real
  obtain ⟨bi, h4⟩ := Memory.readEl_of_longEnough hlong hk .imag
  exact ⟨_, _, bfly_eq h1 h2 h3 h4, longEnough_writeLegs h1 h2 h3 h4 _,
    fun b hb => readEl_writeLegs_ne h1 h2 h3 h4 _ (hb.imp_right fun _ => ⟨by omega, by omega⟩)⟩

/-- The values with which a worker leaves the round do not change as it ends a stage of it. -/
theorem State.leavesWith_endStage (hst : s.st = .dist ∨ s.st = .localPhase) {d : Worker} {k : Nat}
    (hd : s.leavesWith d (k + 1) = true) : s.leavesWith d.endStage k = true := by
  have hn2 : d.n2 / 2 / 2 ^ k = d.n2 / 2 ^ (k + 1) := by rw [Nat.div_div_eq_div_mul, Nat.pow_succ']
  obtain hst | hst := hst
  · obtain ⟨h1, h2⟩ := (State.leavesWith_dist hst).mp hd
    exact (State.leavesWith_dist hst).mpr ⟨by simp only [Worker.endStage]; omega, hn2.trans h2⟩
  · obtain ⟨h1, h2⟩ := (State.leavesWith_local hst).mp hd
    exact (State.leavesWith_local hst).mpr ⟨by simp only [Worker.endStage]; omega, hn2.trans h2⟩

/-- An atom of a worker's command in a round. -/
theorem State.Works.work {it : Work} {l : List Work} (hw : s.Works h w) (hst : s.st = .dist ∨ s.st = .localPhase)
    (hbuf : s.buf = some h) (hlong : s.mem.longEnough h s.size = true) (hlt : w < s.nt)
    (hl : (s.worker w).todo = it :: l) :
    ∃ t, perform (.work w) s = .next t ∧ t.Works h w ∧ s.KeepsForeign t ∧
      (∀ g n, t.mem.longEnough g n = s.mem.longEnough g n) ∧ t.ackq = s.ackq := by
  rw [perform_work hlt hw.running hl]
  obtain ⟨hcmd, hrun, hhandle, hfits, hleaves⟩ := hw
  rw [hl] at hfits hleaves
  have hd : ∀ l, (s.setTodo w l).worker w = { s.worker w with todo := l } := fun l => State.worker_setWorker_self ..
  cases it with
  | bfly k =>
    simp only [workFits, Bool.and_eq_true, decide_eq_true_eq] at hfits
    obtain ⟨m, n, hstep, hlen, hforeign⟩ := bfly_ok (s := s.setTodo w l) (w := w) (k := k)
      (by simpa [hhandle] using hlong) (by simpa using hfits.1)
    refine ⟨_, hstep, ⟨hcmd, ?_, ?_, ?_, ?_⟩, fun b hb => hforeign b ?_, hlen, rfl⟩
    · exact (congrArg Worker.run (hd l)).trans hrun
    · exact (congrArg Worker.buf (hd l)).trans hhandle
    · show workFits s.size ((s.setTodo w l).worker w).n2 ((s.setTodo w l).worker w).todo = true
      rw [hd]
      exact hfits.2
    · show s.leavesWith ((s.setTodo w l).worker w) (stagesIn ((s.setTodo w l).worker w).todo) = true
      rw [hd]
      exact hleaves
    · simpa [hhandle, hbuf, eq_comm] using hb
  | endStage =>
    simp only [workFits, stagesIn] at hfits hleaves
    refine ⟨_, rfl, ⟨hcmd, ?_, ?_, ?_, ?_⟩, fun _ _ => rfl, fun _ _ => rfl, rfl⟩
    · simp [Worker.endStage, hrun]
    · simp [Worker.endStage, hhandle]
    · simpa [Worker.endStage] using hfits
    · simp only [State.setTodo_eq, State.worker_setWorker_self]
      exact s.leavesWith_endStage hst hleaves

end

end Sys2Proof.Machine
end

section
/-! PROOFS. A round in progress is kept by the moves of its workers and by the reports counted (10_state.md R44, R45;
42_coordinator.md R176 to R181). -/

namespace Sys2Proof.Machine

section
variable {s t : State} {h : Handle} {w : Nat}

/-- The report of a worker whose atoms are done. -/
theorem State.Works.report (hw : s.Works h w) (hlt : w < s.nt) (hl : (s.worker w).todo = []) :
    perform (.report w) s = .next (s.sendAck w) ∧ (s.sendAck w).Reported h w := by
  refine ⟨perform_report hlt hw.running hl, State.idleWorker_iff.mpr ⟨hw.command, ?_, ?_⟩, ?_, ?_⟩
  · rw [State.worker_sendAck_self]
  · rw [State.worker_sendAck_self]
  · rw [State.worker_sendAck_self]
    exact hw.buf
  · rw [State.worker_sendAck_self]
    have hleaves := hw.leaves
    rw [hl] at hleaves
    exact hleaves

/-- What holds of a worker in a round depends on its descriptor, its channel and the registers of the round. -/
theorem State.workerOk_congr {v : Nat} (hcmd : t.cmdAt v = s.cmdAt v) (hworker : t.worker v = s.worker v)
    (hst : t.st = s.st) (hphase : t.phase = s.phase) (hnu : t.nu = s.nu) (hsul : t.sul = s.sul) :
    t.workerOk h v = s.workerOk h v := by
  simp only [State.workerOk, State.roundCommand, State.entersWith, State.leavesWith, State.round, State.size,
    State.idleWorker, hcmd, hworker, hst, hphase, hnu, hsul]

theorem State.owesReport_congr {v : Nat} (hcmd : t.cmdAt v = s.cmdAt v) (hworker : t.worker v = s.worker v) :
    t.owesReport v = s.owesReport v := by
  simp only [State.owesReport, hcmd, hworker]

/-- A round goes on when one worker has done something: it has gone on with its command, or it has reported. -/
theorem State.RoundOk.of_atWork (hr : s.RoundOk) (hbuf : s.buf = some h) (ha : s.AtWork t w) (hlt : w < s.nt)
    (hok : t.workerOk h w = true) (hlong : t.mem.longEnough h s.size = true)
    (hack : (t.ackq = s.ackq ∧ t.owesReport w = s.owesReport w) ∨
      (t.ackq = s.ackq ++ [encode (.ack w)] ∧ s.owesReport w = true ∧ t.owesReport w = false)) : t.RoundOk := by
  obtain ⟨hphase, ⟨h', hbuf', -, hworkers⟩, hreports, howed, hsome⟩ := hr
  obtain rfl : h' = h := Option.some.inj (hbuf'.symm.trans hbuf)
  have hothers : ∀ v, v ≠ w → t.owesReport v = s.owesReport v := fun v hv =>
    State.owesReport_congr (ha.others v hv).2 (ha.others v hv).1
  refine ⟨?_, ⟨h', ha.buf.trans hbuf, ?_, fun v hv => ?_⟩, fun x hx => ?_, ?_, ha.pack ▸ hsome⟩
  · simpa only [ha.phase, ha.sul, ha.st] using hphase
  · rwa [State.size, ha.nu]
  · by_cases hvw : v = w
    · rw [hvw]; exact hok
    · rw [State.workerOk_congr (ha.others v hvw).2 (ha.others v hvw).1 ha.st ha.phase ha.nu ha.sul]
      exact hworkers v (ha.nt ▸ hv)
  · rw [ha.nt]
    obtain ⟨hq, -⟩ | ⟨hq, -⟩ := hack <;> rw [hq] at hx
    · exact hreports x hx
    · obtain hx | hx := List.mem_append.mp hx
      · exact hreports x hx
      · exact ⟨w, hlt, List.mem_singleton.mp hx⟩
  · rw [ha.pack, ha.nt, howed]
    obtain ⟨hq, hsame⟩ | ⟨hq, howes, hdone⟩ := hack
    · rw [hq]
      congr 1
      refine List.countP_congr fun v _ => ?_
      by_cases hvw : v = w
      · rw [hvw, hsame]
      · rw [hothers v hvw]
    · rw [hq, List.length_append, countP_range_eq_succ hlt howes hdone fun v hv => (hothers v hv).symm]
      simp only [List.length_singleton]
      omega

/-- A round begins with a command on every channel and no report (42_coordinator.md R176). -/
theorem State.RoundOk.of_waits (hphase : ∃ r, s.PhaseOk r ∧ (s.st = .localPhase → r = s.sul)) (hbuf : s.buf = some h)
    (hlong : s.mem.longEnough h s.size = true) (hwaits : ∀ v, v < s.nt → s.Waits h v) (hack : s.ackq = [])
    (hpack : s.pack = s.nt) (hnt : 1 ≤ s.nt) : s.RoundOk where
  phase := by
    obtain ⟨r, hp, hlocal⟩ := hphase
    exact ⟨r, hp.low, hp.high, hp.phase, hlocal⟩
  buffer := ⟨h, hbuf, hlong, fun v hv => State.workerOk_iff.mpr (.inl (hwaits v hv))⟩
  reports := fun x hx => by simp [hack] at hx
  owed := by
    have hall : (List.range s.nt).countP s.owesReport = (List.range s.nt).length :=
      List.countP_eq_length.mpr fun v hv => (hwaits v (List.mem_range.mp hv)).owes
    rw [hall, hack, hpack]
    simp
  some_owed := hpack ▸ hnt

theorem State.RoundOk.phaseOk (hr : s.RoundOk) : ∃ r, s.PhaseOk r ∧ (s.st = .localPhase → r = s.sul) := by
  obtain ⟨r, hlow, hhigh, hphase, hlocal⟩ := hr.phase
  exact ⟨r, ⟨hlow, hhigh, hphase⟩, hlocal⟩

/-- When the last report of a round is taken every worker has reported (42_coordinator.md R178). -/
theorem State.RoundOk.all_reported {n : Nat} (hr : s.RoundOk) (hpack : s.pack = 1) (hn : n < s.ackq.length) :
    s.ackq.eraseIdx n = [] ∧
      ∃ h, s.buf = some h ∧ s.mem.longEnough h s.size = true ∧ ∀ v, v < s.nt → s.Reported h v := by
  obtain ⟨-, ⟨h, hbuf, hlong, hworkers⟩, -, howed, -⟩ := hr
  have hcount : (List.range s.nt).countP s.owesReport = 0 := by omega
  refine ⟨List.length_eq_zero_iff.mp (by rw [List.length_eraseIdx_of_lt hn]; omega), h, hbuf, hlong, fun v hv => ?_⟩
  refine State.reported_of_not_owes (hworkers v hv) ?_
  simpa using List.countP_eq_zero.mp hcount v (List.mem_range.mpr hv)

/-- A report that is not the last leaves the round as it is. -/
theorem State.RoundOk.counted {n : Nat} (hr : s.RoundOk) (hn : n < s.ackq.length) (hpack : 2 ≤ s.pack) :
    ({ s with ackq := s.ackq.eraseIdx n, pack := s.pack - 1 } : State).RoundOk where
  phase := hr.phase
  buffer := hr.buffer
  reports := fun x hx => hr.reports x (List.mem_of_mem_eraseIdx hx)
  owed := by
    show s.pack - 1 = (s.ackq.eraseIdx n).length + (List.range s.nt).countP s.owesReport
    rw [List.length_eraseIdx_of_lt hn, hr.owed]
    omega
  some_owed := by
    show 1 ≤ s.pack - 1
    omega

/-- A worker that has reported in a STRIDED round leaves it with the values of the next round. -/
theorem State.Reported.leaves_dist {r : Nat} (hw : s.Reported h w) (hst : s.st = .dist) (hp : s.PhaseOk r) :
    (s.worker w).nu1 = (s.nu : Int) - (r + 1 : Nat) ∧ (s.worker w).n2 = 2 ^ (s.nu - (r + 1)) := by
  obtain ⟨h1, h2⟩ := (State.leavesWith_dist hst).mp hw.leaves
  rw [State.round_dist hp hst] at h1 h2
  refine ⟨by omega, ?_⟩
  rw [← Nat.sub_sub]
  simpa using h2

/-- The next STRIDED round (42_coordinator.md R179). -/
theorem State.RoundOk.nextRound {n : Nat} (hr : s.RoundOk) (hc : s.ConfiguredOk) (hn : n < s.ackq.length)
    (hst : s.st = .dist) (hpack : s.pack = 1) (hphase : s.phase < s.nt) (hbuf : s.buf = some h) :
    ({ ({ s with ackq := s.ackq.eraseIdx n, pack := 0 } : State).broadcast (.strided false h) with
      phase := s.phase * 2 } : State).RoundOk := by
  obtain ⟨r, hp, -⟩ := hr.phaseOk
  obtain ⟨herase, h', hbuf', hlong, hreported⟩ := hr.all_reported hpack hn
  obtain rfl : h' = h := Option.some.inj (hbuf'.symm.trans hbuf)
  have hlt : r < s.sul := by
    rw [hp.phase, hc.nt_eq] at hphase
    exact (Nat.pow_lt_pow_iff_right one_lt_two).mp hphase
  have hp' : ({ ({ s with ackq := s.ackq.eraseIdx n, pack := 0 } : State).broadcast (.strided false h') with
      phase := s.phase * 2 } : State).PhaseOk (r + 1) :=
    ⟨Nat.le_add_left 1 r, hlt, by rw [Nat.pow_succ, ← hp.phase]⟩
  refine .of_waits ⟨r + 1, hp', fun hl => by simp [hst] at hl⟩ hbuf hlong (fun v hv => ?_) herase rfl
    (nt_pos_of_workerCountOk hc.count)
  obtain ⟨hcmd, hrun, htodo⟩ := State.idleWorker_iff.mp (hreported v hv).idle
  refine ⟨?_, hrun, htodo, .inr ⟨State.entersWith_iff.mpr ?_, (hreported v hv).buf⟩⟩
  · refine (State.cmdAt_broadcast_lt { s with ackq := s.ackq.eraseIdx n, pack := 0 } _ hv).trans ?_
    have hlater : (s.phase * 2 == 2) = false := by
      have hpos : 2 ^ 1 ≤ 2 ^ r := Nat.pow_le_pow_right two_pos hp.low
      rw [beq_eq_false_iff_ne, hp.phase]
      omega
    show s.cmdAt v ++ _ = _
    simp [hcmd, State.roundCommand, hst, hlater]
  · rw [State.round_dist hp' hst]
    exact (hreported v hv).leaves_dist hst hp

/-- The LOCAL round (R179). -/
theorem State.RoundOk.lastRound {n : Nat} (hr : s.RoundOk) (hc : s.ConfiguredOk) (hn : n < s.ackq.length)
    (hst : s.st = .dist) (hpack : s.pack = 1) (hphase : s.nt ≤ s.phase) :
    ({ ({ s with ackq := s.ackq.eraseIdx n, pack := 0 } : State).broadcast .localRemainder with
      st := .localPhase } : State).RoundOk := by
  obtain ⟨r, hp, -⟩ := hr.phaseOk
  obtain ⟨herase, h, hbuf, hlong, hreported⟩ := hr.all_reported hpack hn
  have hlast : r = s.sul := by
    rw [hp.phase, hc.nt_eq] at hphase
    exact le_antisymm hp.high ((Nat.pow_le_pow_iff_right one_lt_two).mp hphase)
  refine .of_waits ⟨r, ⟨hp.low, hp.high, hp.phase⟩, fun _ => hlast⟩ hbuf hlong (fun v hv => ?_) herase rfl
    (nt_pos_of_workerCountOk hc.count)
  obtain ⟨hcmd, hrun, htodo⟩ := State.idleWorker_iff.mp (hreported v hv).idle
  refine ⟨?_, hrun, htodo, .inr ⟨State.entersWith_iff.mpr ?_, (hreported v hv).buf⟩⟩
  · refine (State.cmdAt_broadcast_lt { s with ackq := s.ackq.eraseIdx n, pack := 0 } _ hv).trans ?_
    show s.cmdAt v ++ _ = _
    simp [hcmd, State.roundCommand]
  · rw [State.round_local rfl]
    subst hlast
    exact (hreported v hv).leaves_dist hst hp

/-- After the last round every worker rests (10_state.md R47). -/
theorem State.RoundOk.quiet {n : Nat} (hr : s.RoundOk) (hc : s.ConfiguredOk) (hpack : s.pack = 1)
    (hn : n < s.ackq.length) : s.ackq.eraseIdx n = [] ∧ ∀ v, s.idleWorker v = true := by
  obtain ⟨herase, h, -, -, hreported⟩ := hr.all_reported hpack hn
  refine ⟨herase, fun v => ?_⟩
  obtain hv | hv := Nat.lt_or_ge v s.nt
  · exact (hreported v hv).idle
  · have hworker : s.worker v = Worker.powerOn := List.getD_eq_default _ _ (hc.workers.symm ▸ hv)
    have hcmd : s.cmdAt v = [] := List.getD_eq_default _ _ (hc.channels.symm ▸ hv)
    exact State.idleWorker_iff.mpr ⟨hcmd, by rw [hworker]; rfl, by rw [hworker]; rfl⟩

/-- The reorder pass begins after the LOCAL round (R181). -/
theorem State.RoundOk.roundsOver {n : Nat} (hr : s.RoundOk) (hc : s.ConfiguredOk) (hn : n < s.ackq.length)
    (hst : s.st = .localPhase) (hpack : s.pack = 1) :
    (releaseLocal { s with ackq := s.ackq.eraseIdx n, pack := 0 }).ReorderOk := by
  obtain ⟨r, hp, hlocal⟩ := hr.phaseOk
  obtain ⟨-, h, hbuf, hlong, -⟩ := hr.all_reported hpack hn
  refine ⟨hr.quiet hc hpack hn, ?_, Nat.zero_le _, fun _ => ⟨h, hbuf, hlong⟩, nofun⟩
  show s.phase = s.nt
  rw [hp.phase, hlocal hst, ← hc.nt_eq]

/-- The first round of an accepted SUBMIT (R171). -/
theorem State.roundOk_accept (hq : s.Quiet) (hc : s.ConfiguredOk) (hlong : s.mem.longEnough h s.size = true)
    (cb : Callback) : (s.accept h cb).RoundOk := by
  have hsul : 1 ≤ s.sul := by
    rw [hc.sul, Nat.le_log2 (by have := nt_pos_of_workerCountOk hc.count; omega)]
    exact (workerCountOk_iff.mp hc.count).1
  refine .of_waits ⟨1, ⟨le_rfl, hsul, rfl⟩, nofun⟩ rfl hlong (fun v hv => ?_) hq.1 rfl
    (nt_pos_of_workerCountOk hc.count)
  obtain ⟨hcmd, hrun, htodo⟩ := State.idleWorker_iff.mp (hq.2 v)
  refine ⟨(s.cmdAt_accept_lt h cb hv).trans ?_, hrun, htodo, .inl ⟨rfl, rfl⟩⟩
  rw [hcmd]
  rfl

end

end Sys2Proof.Machine
end

section
/-! PROOFS. The invariant of the whole engine: every move keeps it, no move is refused, and only the host can stop a run
(10_state.md sections 2, 3 and 7; 42_coordinator.md sections 4 and 5). -/

namespace Sys2Proof.Machine

section
variable {s t : State}

theorem State.busyOk_iff : s.busyOk = true ↔ (s.busy = true ↔ s.st = .dist ∨ s.st = .localPhase ∨ s.st = .reord) := by
  rw [State.busyOk, State.inTransform, beq_iff_eq, Bool.eq_iff_iff]
  simp [or_assoc]

/-- Outside a transform an engine that is not busy rests. -/
theorem State.Inv.resting_of_not_busy (h : s.Inv) (hbusy : s.busy = false) :
    (s.st = .unconf ∨ s.st = .idle) ∧ s.Quiet ∧ s.buf = none := by
  have hst : s.st = .unconf ∨ s.st = .idle := by
    have hno := State.busyOk_iff.mp h.busy
    cases hst : s.st <;> simp [hst, hbusy] at hno ⊢
  exact ⟨hst, h.resting hst⟩

/-- What the host can do to the memory, its lists and the event queue, and a change of the schedule, keep a round. -/
theorem State.RoundOk.hostSide (h : s.RoundOk) {m : Memory} {q : List HostAct} {e : List Word} {l : List HostNote}
    {sch : List Move} {n : Nat} {sp : Bool}
    (hlong : ∀ b, s.buf = some b → s.mem.longEnough b s.size = true → m.longEnough b s.size = true) :
    ({ s with mem := m, hostq := q, evq := e, seen := l, sched := sch, draws := n, spoiled := sp } : State).RoundOk where
  phase := h.phase
  buffer := by
    obtain ⟨b, hbuf, hb, hworkers⟩ := h.buffer
    exact ⟨b, hbuf, hlong b hbuf hb, hworkers⟩
  reports := h.reports
  owed := h.owed
  some_owed := h.some_owed

theorem State.ReorderOk.hostSide (h : s.ReorderOk) {m : Memory} {q : List HostAct} {e : List Word} {l : List HostNote}
    {sch : List Move} {n : Nat} {sp : Bool}
    (hlong : ∀ b, s.buf = some b → s.mem.longEnough b s.size = true → m.longEnough b s.size = true) :
    ({ s with mem := m, hostq := q, evq := e, seen := l, sched := sch, draws := n, spoiled := sp } : State).ReorderOk where
  quiet := h.quiet
  phase := h.phase
  index := h.index
  buffer := fun hn => by
    obtain ⟨b, hbuf, hb⟩ := h.buffer hn
    exact ⟨b, hbuf, hlong b hbuf hb⟩
  given_up := h.given_up

theorem State.Inv.hostSide (h : s.Inv) {m : Memory} {q : List HostAct} {e : List Word} {l : List HostNote}
    {sch : List Move} {n : Nat} {sp : Bool} (hm : m.wf = true)
    (hlong : ∀ b, s.buf = some b → s.mem.longEnough b s.size = true → m.longEnough b s.size = true)
    (he : ∀ x ∈ e, x ∈ s.evq) :
    ({ s with mem := m, hostq := q, evq := e, seen := l, sched := sch, draws := n, spoiled := sp } : State).Inv where
  busy := h.busy
  memory := hm
  configured := fun hst => (h.configured hst).congr rfl rfl rfl rfl rfl rfl rfl
  resting := h.resting
  round := fun hst => (h.round hst).hostSide hlong
  reorder := fun hst => (h.reorder hst).hostSide hlong
  events := fun x hx => h.events x (he x hx)
  responses := h.responses

/-- The clauses of the invariant that each move keeps by itself, and the three that are about the phase of a transform. -/
theorem State.Inv.of_move {m : Move} (h : s.Inv) (hp : perform m s = .next t)
    (hresting : t.st = .unconf ∨ t.st = .idle → t.Quiet ∧ t.buf = none)
    (hround : t.st = .dist ∨ t.st = .localPhase → t.RoundOk) (hreorder : t.st = .reord → t.ReorderOk) : t.Inv where
  busy := State.busyOk_iff.mpr (perform_keeps_busy (State.busyOk_iff.mp h.busy) hp)
  memory := perform_keeps_wf h.memory hp
  configured := perform_keeps_configured h.configured hp
  resting := hresting
  round := hround
  reorder := hreorder
  events := perform_keeps_events h.events hp
  responses := perform_keeps_rsp h.responses hp

theorem State.Inv.of_round {m : Move} (h : s.Inv) (hp : perform m s = .next t) (hst : t.st = .dist ∨ t.st = .localPhase)
    (hr : t.RoundOk) : t.Inv :=
  h.of_move hp (fun h => by obtain h | h := h <;> simp [h] at hst) (fun _ => hr) (fun h => by simp [h] at hst)

theorem State.Inv.of_resting {m : Move} (h : s.Inv) (hp : perform m s = .next t)
    (hst : t.st = .unconf ∨ t.st = .idle) (hq : t.Quiet) (hbuf : t.buf = none) : t.Inv :=
  h.of_move hp (fun _ => ⟨hq, hbuf⟩) (fun h => by obtain h | h := h <;> simp [h] at hst) (fun h => by simp [h] at hst)

theorem State.Inv.of_reorder {m : Move} (h : s.Inv) (hp : perform m s = .next t) (hst : t.st = .reord)
    (hr : t.ReorderOk) : t.Inv :=
  h.of_move hp (by simp [hst]) (by simp [hst]) (fun _ => hr)

theorem State.Inv.configured_of_round (h : s.Inv) (hst : s.st = .dist ∨ s.st = .localPhase) : s.ConfiguredOk :=
  h.configured (by obtain hst | hst := hst <;> simp [hst])

/-! ### The moves of the host and of the coordinator -/

theorem State.quiet_construct (s : State) (nu nt : Nat) : (s.construct nu nt).Quiet :=
  ⟨rfl, fun w => State.idleWorker_iff.mpr
    ⟨s.cmdAt_construct nu nt w, (s.worker_construct_halted nu nt w).1, (s.worker_construct_halted nu nt w).2⟩⟩

theorem State.Quiet.release (h : s.Quiet) : s.release.Quiet :=
  ⟨h.1, fun w => State.idleWorker_iff.mpr
    ⟨(State.idleWorker_iff.mp (h.2 w)).1, (s.worker_release_halted w).1, (s.worker_release_halted w).2⟩⟩

/-- The notify step gives the buffer up (42_coordinator.md R184). -/
theorem State.ReorderOk.notified (h : s.ReorderOk) (hrk : s.rk = s.size) (m : Memory) (n : Nat) (e : List Word) :
    ({ s with mem := m, draws := n, evq := e, buf := none, notified := true } : State).ReorderOk where
  quiet := h.quiet
  phase := h.phase
  index := h.index
  buffer := nofun
  given_up := fun _ => ⟨rfl, hrk⟩

/-- A reorder step keeps the pass, whatever it does to the values in the buffer. -/
theorem State.ReorderOk.step (h : s.ReorderOk) (hrk : s.rk < s.size) {m : Memory}
    (hlong : ∀ b, m.longEnough b s.size = s.mem.longEnough b s.size) :
    ({ s with mem := m, rk := s.rk + 1 } : State).ReorderOk where
  quiet := h.quiet
  phase := h.phase
  index := hrk
  buffer := fun hn => by
    obtain ⟨b, hbuf, hb⟩ := h.buffer hn
    exact ⟨b, hbuf, (hlong b).trans hb⟩
  given_up := fun hn => absurd (h.given_up hn).2 hrk.ne

/-- Every move but a worker's keeps the invariant. -/
theorem State.Inv.keeps {m : Move} (h : s.Inv) (hm : m.workerOf = none) (hp : perform m s = .next t) : t.Inv := by
  cases perform_next hp with
  | worked hm' => simp [hm] at hm'
  | disabled => exact h
  | answered | read => exact h.hostSide h.memory (fun _ _ h => h) (fun _ h => h)
  | completed cb b hq he => exact h.hostSide h.memory (fun _ _ h => h) (fun _ hx => he ▸ List.mem_cons_of_mem _ hx)
  | @bound g b q hq hbuf =>
    refine h.hostSide (Memory.wf_put h.memory) (fun c hc hlong => ?_) (fun _ h => h)
    have hne : g ≠ c := fun e => hbuf (e ▸ hc)
    exact (Memory.longEnough_put_ne hne b s.size).trans hlong
  | spoilt hq hu hlent =>
    exact h.hostSide (State.wf_redraw (s := s) _ h.memory)
      (fun c _ hlong => (State.longEnough_redraw (Memory.isUnbound_of_readEl hu) c s.size).trans hlong) (fun _ h => h)
  | wrote hq hu hlent =>
    exact h.hostSide (Memory.wf_writeEl _ _ h.memory)
      (fun c _ hlong => (Memory.longEnough_writeEl hu c s.size).trans hlong) (fun _ h => h)
  | @configured w q nu hint => exact h.of_resting hp (.inr rfl) (State.quiet_construct { s with hostq := q } nu _) rfl
  | shutDown hq hd hst hbusy =>
    exact h.of_resting hp (.inl rfl) (h.resting_of_not_busy hbusy).2.1.release rfl
  | @submitted w q b cb hq hd hst hbusy hlong =>
    refine h.of_round hp (.inl rfl) ?_
    have hr := State.roundOk_accept (s := { s with hostq := q }) (h.resting_of_not_busy hbusy).2.1
      ((h.configured hst).congr rfl rfl rfl rfl rfl rfl rfl) hlong cb
    exact hr.hostSide (fun _ _ h => h)
  | counted hn hst hpack => exact h.of_round hp hst ((h.round hst).counted hn hpack)
  | nextRound hn hst hpack hphase hbuf =>
    exact h.of_round hp (.inl hst)
      ((h.round (.inl hst)).nextRound (h.configured_of_round (.inl hst)) hn hst hpack hphase hbuf)
  | lastRound hn hst hpack hphase =>
    exact h.of_round hp (.inr rfl)
      ((h.round (.inl hst)).lastRound (h.configured_of_round (.inl hst)) hn hst hpack hphase)
  | roundsOver hn hst hpack =>
    exact h.of_reorder hp rfl ((h.round (.inr hst)).roundsOver (h.configured_of_round (.inr hst)) hn hst hpack)
  | passed hst hrk => exact h.of_reorder hp hst ((h.reorder hst).step hrk fun _ => rfl)
  | exchanged hst hrk hbuf hxr hyr hxi hyi =>
    exact h.of_reorder hp hst ((h.reorder hst).step hrk fun b => longEnough_swapEls hxr hyr hxi hyi b _)
  | notified hst hrk hbuf =>
    refine h.of_reorder hp (by split <;> exact hst) ?_
    split <;> exact (h.reorder hst).notified hrk _ _ _
  | wentIdle hst hn =>
    exact h.of_resting hp (.inr rfl) (h.reorder hst).quiet ((h.reorder hst).given_up hn).1
  | responded b c hx => simp [h.responses] at hx

/-- Every word on the host command port is answered, or it is SHUTDOWN in flight. -/
theorem deliver_hostCommand_cases (w : Word) (s : State) :
    (∃ t, deliver .hostCommand w s = .next t) ∨ deliver .hostCommand w s = .fault .shutdownInFlight := by
  by_cases hlegal : ∃ i, decode w = .instr i ∧ i.port = .hostCommand
  · obtain ⟨i, hd, hp⟩ := hlegal
    rw [deliver_message hd hp]
    cases i with
    | config nu hint =>
      left
      simp only [exec, execConfig]
      split_ifs <;> exact ⟨_, rfl⟩
    | submit b cb =>
      left
      simp only [exec, execSubmit]
      split_ifs <;> exact ⟨_, rfl⟩
    | isbusy =>
      left
      simp only [exec, execIsbusy]
      split_ifs <;> exact ⟨_, rfl⟩
    | shutdown =>
      simp only [exec, execShutdown]
      split_ifs
      · exact .inl ⟨_, rfl⟩
      · exact .inr rfl
      · exact .inl ⟨_, rfl⟩
    | strided | localRemainder | ack | done | rsp => cases hp
  · rw [deliver_eq_stray fun i hd hp => hlegal ⟨i, hd, hp⟩]
    exact .inl ⟨_, rfl⟩

/-- The outcome is a next state, or a fault that the host has brought about. -/
def GoesOnUnlessHost (o : Host.Outcome State Fault Refusal) : Prop :=
  (∃ t, o = .next t) ∨ ∃ r, o = .fault r ∧ r.isHosts = true

theorem State.Inv.host_goes_on (h : s.Inv) : GoesOnUnlessHost (perform .host s) := by
  cases hq : s.hostq with
  | nil => exact .inl ⟨s, perform_disabled (by simp [enabled, hostEnabled, hq])⟩
  | cons a q =>
    cases a with
    | word w =>
      rw [perform_host_word hq]
      exact (deliver_hostCommand_cases w _).imp_right fun hf => ⟨_, hf, rfl⟩
    | waitDone =>
      cases hev : s.evq with
      | nil => exact .inl ⟨s, perform_disabled (by simp [enabled, hostEnabled, hq, hev])⟩
      | cons x e =>
        obtain ⟨cb, b, rfl⟩ := h.events x (hev ▸ List.mem_cons_self)
        rw [perform_host_wait hq hev]
        exact .inl ⟨_, deliver_encode (i := .done cb b) rfl rfl _⟩
    | bind b c =>
      rw [perform_host_bind hq, hostBind]
      split_ifs
      · exact .inr ⟨_, rfl, rfl⟩
      · exact .inl ⟨_, rfl⟩
    | write a v =>
      rw [perform_host_write hq, hostWrite]
      split_ifs
      · exact .inr ⟨_, rfl, rfl⟩
      · exact .inl ⟨_, rfl⟩
      · exact .inl ⟨_, rfl⟩
    | read a =>
      rw [perform_host_read hq, hostRead]
      split
      · exact .inr ⟨_, rfl, rfl⟩
      · split_ifs <;> exact .inl ⟨_, rfl⟩

/-- A report can be pending in a round only (10_state.md R47). -/
theorem State.Inv.inRound_of_report (h : s.Inv) (hack : s.ackq ≠ []) : s.st = .dist ∨ s.st = .localPhase := by
  cases hst : s.st with
  | dist => exact .inl rfl
  | localPhase => exact .inr rfl
  | unconf => exact absurd (h.resting (.inl hst)).1.1 hack
  | idle => exact absurd (h.resting (.inr hst)).1.1 hack
  | reord => exact absurd (h.reorder hst).quiet.1 hack

/-- In a round the count of a report goes on (42_coordinator.md R177 to R181). -/
theorem State.RoundOk.execAck_goes_on (hr : s.RoundOk) (hst : s.st = .dist ∨ s.st = .localPhase) (id : Nat)
    (q : List Word) : ∃ t, execAck id { s with ackq := q } = .next t := by
  obtain hmore | hlast : 2 ≤ s.pack ∨ s.pack = 1 := by have := hr.some_owed; omega
  · exact ⟨_, ackIsCounted { s with ackq := q } id hst hmore⟩
  · obtain ⟨b, hbuf, -⟩ := hr.buffer
    rw [execAck_last (s := { s with ackq := q }) hst hlast]
    obtain hst | hst := hst
    · obtain hphase | hphase := Nat.lt_or_ge s.phase s.nt
      · exact ⟨_, release_dist_next_round (s := { s with ackq := q, pack := 0 }) hst hphase hbuf⟩
      · exact ⟨_, release_dist_last_round (s := { s with ackq := q, pack := 0 }) hst hphase⟩
    · exact ⟨_, by simp only [Machine.release, hst]; rfl⟩

/-- A report of the round is a message of its port. -/
theorem State.RoundOk.deliver_report (hr : s.RoundOk) (hc : s.ConfiguredOk) {x : Word} (hx : x ∈ s.ackq) (u : State) :
    ∃ id, deliver .report x u = execAck id u := by
  obtain ⟨w, hw, rfl⟩ := hr.reports x hx
  have hwf : (Instr.ack w).wf = true := by
    have hmax : Config.ntMax ≤ 2 ^ 15 := Nat.pow_le_pow_right two_pos (by have := Config.ntMaxLogAboveOne.isLt; omega)
    have hnt := hc.nt_high
    exact decide_eq_true (by omega)
  exact ⟨w, deliver_encode hwf rfl u⟩

theorem State.Inv.collect_goes_on (h : s.Inv) (n : Nat) : ∃ t, perform (.collect n) s = .next t := by
  obtain hn | hn := Nat.lt_or_ge n s.ackq.length
  · have hst := h.inRound_of_report (fun he => by simp [he] at hn)
    have hx := List.getElem?_eq_getElem hn
    rw [perform_collect hx]
    obtain ⟨id, hid⟩ := (h.round hst).deliver_report (h.configured_of_round hst) (List.mem_of_getElem? hx)
      { s with ackq := s.ackq.eraseIdx n }
    rw [hid]
    exact (h.round hst).execAck_goes_on hst id _
  · exact ⟨s, perform_disabled (decide_eq_false (Nat.not_lt.mpr hn))⟩

/-- The coordinator's own moves go on, since BUF holds a value while the pass lasts (10_state.md R37). -/
theorem State.Inv.coordinator_goes_on (h : s.Inv) {m : Move} (hm : m = .reorder ∨ m = .notify ∨ m = .toIdle ∨ m = .response) :
    ∃ t, perform m s = .next t := by
  cases he : enabled m s with
  | false => exact ⟨s, perform_disabled he⟩
  | true =>
    obtain rfl | rfl | rfl | rfl := hm
    · obtain ⟨hst, hrk⟩ : s.st = .reord ∧ s.rk < s.size := by simpa [enabled] using he
      have hn : s.notified = false :=
        Bool.eq_false_iff.mpr fun hn => absurd ((h.reorder hst).given_up hn).2 hrk.ne
      obtain ⟨b, hbuf, hlong⟩ := (h.reorder hst).buffer hn
      obtain ⟨m, hstep, -⟩ := perform_reorder_permutes hst hrk hbuf hlong
      exact ⟨_, hstep⟩
    · obtain ⟨⟨hst, hrk⟩, hn⟩ : (s.st = .reord ∧ s.rk = s.size) ∧ s.notified = false := by simpa [enabled] using he
      obtain ⟨b, hbuf, -⟩ := (h.reorder hst).buffer hn
      rw [perform_notify hst hrk hn]
      exact ⟨_, by simp only [notify, hbuf]; rfl⟩
    · obtain ⟨hst, hn⟩ : s.st = .reord ∧ s.notified = true := by simpa [enabled] using he
      exact ⟨_, perform_toIdle hst hn⟩
    · simp [enabled, h.responses] at he

/-! ### The moves of the workers -/

/-- A worker that rests has no move. -/
theorem enabled_of_idleWorker {m : Move} {w : Nat} (hm : m.workerOf = some w) (hw : s.idleWorker w = true) :
    enabled m s = false := by
  obtain ⟨hcmd, hrun, -⟩ := State.idleWorker_iff.mp hw
  obtain rfl | rfl | rfl | rfl := eq_of_workerOf hm <;> simp [enabled, hcmd, hrun]

theorem State.Inv.inRound_of_enabled (h : s.Inv) {m : Move} {w : Nat} (hm : m.workerOf = some w)
    (he : enabled m s = true) : s.st = .dist ∨ s.st = .localPhase := by
  have hidle : ¬ s.Quiet := fun hq => by simp [enabled_of_idleWorker hm (hq.2 w)] at he
  cases hst : s.st with
  | dist => exact .inl rfl
  | localPhase => exact .inr rfl
  | unconf => exact absurd (h.resting (.inl hst)).1 hidle
  | idle => exact absurd (h.resting (.inr hst)).1 hidle
  | reord => exact absurd (h.reorder hst).quiet hidle

/-- A worker with a word on its channel waits to receive it. -/
theorem State.waits_of_workerOk {h : Handle} {w : Nat} (hok : s.workerOk h w = true) (hcmd : s.cmdAt w ≠ []) :
    s.Waits h w := by
  obtain hw | hw | hw := State.workerOk_iff.mp hok
  · exact hw
  · exact absurd hw.command hcmd
  · exact absurd (State.idleWorker_iff.mp hw.idle).1 hcmd

/-- A worker that runs is at work. -/
theorem State.works_of_workerOk {h : Handle} {w : Nat} (hok : s.workerOk h w = true)
    (hrun : (s.worker w).run = .running) : s.Works h w := by
  obtain hw | hw | hw := State.workerOk_iff.mp hok
  · simp [hw.halted] at hrun
  · exact hw
  · simp [(State.idleWorker_iff.mp hw.idle).2.1] at hrun

/-- A receipt, an atom or a report goes on, keeps the invariant and touches only what the engine owns. -/
theorem State.Inv.worker_step (h : s.Inv) {m : Move} {w : Nat} (hm : m = .receive w ∨ m = .work w ∨ m = .report w)
    (he : enabled m s = true) : ∃ t, perform m s = .next t ∧ t.Inv ∧ s.KeepsForeign t := by
  have hw : m.workerOf = some w := by obtain rfl | rfl | rfl := hm <;> rfl
  have hst := h.inRound_of_enabled hw he
  have hc := h.configured_of_round hst
  have hr := h.round hst
  obtain ⟨b, hbuf, hlong, hworkers⟩ := hr.buffer
  have hlt := lt_nt_of_enabled hw he
  have hok := hworkers w hlt
  have hinv : ∀ {t}, perform m s = .next t → t.RoundOk → t.Inv := fun hp hrt =>
    h.of_round hp ((perform_atWork hw hp).st ▸ hst) hrt
  obtain rfl | rfl | rfl := hm
  · obtain ⟨-, -, c, cs, hcmd⟩ := enabled_command_iff.mp he
    have hwaits := State.waits_of_workerOk hok (by simp [hcmd])
    obtain ⟨r, hphase, -⟩ := hr.phaseOk
    obtain ⟨t, hp, hworks, hmem, hack⟩ :
        ∃ t, perform (.receive w) s = .next t ∧ t.Works b w ∧ t.mem = s.mem ∧ t.ackq = s.ackq := by
      obtain hst | hst := hst
      · exact hwaits.receive_strided hc hst hphase hlt
      · exact hwaits.receive_local hc hst hlt
    exact ⟨t, hp, hinv hp (hr.of_atWork hbuf (perform_atWork rfl hp) hlt (State.workerOk_iff.mpr (.inr (.inl hworks)))
      (hmem ▸ hlong) (.inl ⟨hack, hworks.owes.trans hwaits.owes.symm⟩)), State.keepsForeign_of_mem_eq hmem⟩
  · obtain ⟨-, hrun, it, l, hl⟩ := enabled_work_iff.mp he
    have hworks := State.works_of_workerOk hok hrun
    obtain ⟨t, hp, hworks', hforeign, hlen, hack⟩ := hworks.work hst hbuf hlong hlt hl
    exact ⟨t, hp, hinv hp (hr.of_atWork hbuf (perform_atWork rfl hp) hlt (State.workerOk_iff.mpr (.inr (.inl hworks')))
      ((hlen _ _).trans hlong) (.inl ⟨hack, hworks'.owes.trans hworks.owes.symm⟩)), hforeign⟩
  · obtain ⟨-, hrun, hl⟩ := enabled_report_iff.mp he
    have hworks := State.works_of_workerOk hok hrun
    obtain ⟨hp, hreported⟩ := hworks.report hlt hl
    exact ⟨_, hp, hinv hp (hr.of_atWork hbuf (perform_atWork rfl hp) hlt
      (State.workerOk_iff.mpr (.inr (.inr hreported))) hlong
      (.inr ⟨rfl, hworks.owes, State.owesReport_of_idle hreported.idle⟩)), State.keepsForeign_of_mem_eq rfl⟩

theorem State.Inv.worker_steps (h : s.Inv) {w : Nat} {ms : List Move}
    (hms : ∀ m ∈ ms, m = .receive w ∨ m = .work w ∨ m = .report w) :
    ∃ t, performAll ms s = .next t ∧ t.Inv ∧ s.KeepsForeign t := by
  induction ms generalizing s with
  | nil => exact ⟨s, rfl, h, State.keepsForeign_of_mem_eq rfl⟩
  | cons m ms ih =>
    obtain ⟨hm, hrest⟩ := List.forall_mem_cons.mp hms
    have hw : m.workerOf = some w := by obtain rfl | rfl | rfl := hm <;> rfl
    obtain ⟨u, hu, hinv, hforeign⟩ : ∃ u, perform m s = .next u ∧ u.Inv ∧ s.KeepsForeign u := by
      cases he : enabled m s with
      | false => exact ⟨s, perform_disabled he, h, State.keepsForeign_of_mem_eq rfl⟩
      | true => exact h.worker_step hm he
    obtain ⟨t, ht, hinvt, hforeignt⟩ := ih hinv hrest
    have ha := perform_atWork hw hu
    refine ⟨t, ?_, hinvt, hforeign.trans hforeignt ha.buf ha.nu⟩
    rw [performAll, hu, andThen_next, ht]

theorem State.movesLeft_forall (s : State) (w : Nat) :
    ∀ m ∈ s.movesLeft w, m = .receive w ∨ m = .work w ∨ m = .report w := by
  intro m hm
  obtain hm | hm := List.mem_append.mp hm
  · exact .inr (.inl (List.eq_of_mem_replicate hm))
  · exact .inr (.inr (List.mem_singleton.mp hm))

/-- Every move of a worker goes on, keeps the invariant and touches only what the engine owns: a whole command by its
receipt, atoms and report. -/
theorem State.Inv.worker_goes_on (h : s.Inv) {m : Move} {w : Nat} (hm : m.workerOf = some w) :
    ∃ t, perform m s = .next t ∧ t.Inv ∧ s.KeepsForeign t := by
  cases he : enabled m s with
  | false => exact ⟨s, perform_disabled he, h, State.keepsForeign_of_mem_eq rfl⟩
  | true =>
    obtain rfl | hm' := eq_of_workerOf hm
    · obtain ⟨u, hu, hinv, hforeign⟩ := h.worker_step (.inl rfl) (show enabled (.receive w) s = true from he)
      obtain ⟨t, ht, hinvt, hforeignt⟩ := hinv.worker_steps (u.movesLeft_forall w)
      have ha := perform_atWork (m := .receive w) rfl hu
      refine ⟨t, ?_, hinvt, hforeign.trans hforeignt ha.buf ha.nu⟩
      rw [perform_command_eq he, hu, andThen_next, ht]
    · exact h.worker_step hm' he

/-! ### All moves -/

/-- Every move of the engine goes on. -/
theorem State.Inv.engine_goes_on (h : s.Inv) {m : Move} (hm : m ≠ .host) : ∃ t, perform m s = .next t := by
  cases hw : m.workerOf with
  | some w =>
    obtain ⟨t, ht, -⟩ := h.worker_goes_on hw
    exact ⟨t, ht⟩
  | none =>
    cases m with
    | host => exact absurd rfl hm
    | collect n => exact h.collect_goes_on n
    | reorder | notify | toIdle | response => exact h.coordinator_goes_on (by simp)
    | command | receive | work | report => cases hw

theorem State.Inv.goes_on (h : s.Inv) (m : Move) : GoesOnUnlessHost (perform m s) := by
  by_cases hm : m = .host
  · rw [hm]; exact h.host_goes_on
  · exact .inl (h.engine_goes_on hm)

/-- Every move keeps the invariant. -/
theorem State.Inv.perform {m : Move} (h : s.Inv) (hp : perform m s = .next t) : t.Inv := by
  cases hm : m.workerOf with
  | none => exact h.keeps hm hp
  | some w =>
    obtain ⟨u, hu, hinv, -⟩ := h.worker_goes_on hm
    exact Host.Outcome.next.inj (hu.symm.trans hp) ▸ hinv

/-- The schedule and the count of draws are no part of the invariant. -/
theorem State.Inv.own (h : s.Inv) (ms : List Move) (n : Nat) : ({ s with sched := ms, draws := n } : State).Inv :=
  h.hostSide h.memory (fun _ _ h => h) (fun _ h => h)

theorem State.Inv.step_goes_on (h : s.Inv) : GoesOnUnlessHost (step s) := by
  obtain ⟨m, ms, -, he⟩ | ⟨-, m, -, he⟩ | ⟨-, -, he⟩ := step_cases s <;> rw [he]
  · exact (h.own ms s.draws).goes_on m
  · exact (h.own s.sched (s.draws + 1)).goes_on m
  · exact .inl ⟨s, rfl⟩

end

/-- Settles O55. -/
theorem engineInvariantKept : Obligations.EngineInvariantKept := fun _ _ hs h =>
  step_keeps (P := State.Inv) (fun _ ms n h => h.own ms n) (fun _ _ _ => State.Inv.perform) hs h

/-- Settles O58. -/
theorem nothingIsRefused : Obligations.NothingIsRefused := by
  intro s r h hr
  obtain ⟨t, ht⟩ | ⟨f, hf, -⟩ := h.step_goes_on
  · simp [ht] at hr
  · simp [hf] at hr

/-- Settles O59. -/
theorem onlyTheHostCanStopARun : Obligations.OnlyTheHostCanStopARun := by
  intro s r h hr
  obtain ⟨t, ht⟩ | ⟨f, hf, hhost⟩ := h.step_goes_on
  · simp [ht] at hr
  · exact Host.Outcome.fault.inj (hf.symm.trans hr) ▸ hhost

/-- Settles O48: a worker's move touches its legs, and the coordinator's the elements it exchanges or hands back. -/
theorem engineTouchesOnlyWhatItOwns : Obligations.EngineTouchesOnlyWhatItOwns := by
  intro s t m ms h hs hhost hstep
  have h' := h.own ms s.draws
  rw [step_scheduled hs] at hstep
  cases hm : m.workerOf with
  | some w =>
    obtain ⟨u, hu, -, hforeign⟩ := h'.worker_goes_on hm
    exact Host.Outcome.next.inj (hu.symm.trans hstep) ▸ hforeign
  | none =>
    intro b hb
    cases perform_next hstep with
    | worked hm' => simp [hm] at hm'
    | answered | configured | submitted | shutDown | completed | bound | spoilt | wrote | read => exact absurd rfl hhost
    | @exchanged g xr yr xi yi hst hrk hbuf hxr hyr hxi hyi =>
      obtain rfl | hg := eq_or_ne b.handle g
      · have hi : s.size ≤ b.idx := hb.resolve_left (not_not_intro hbuf)
        have hrev : bitrev s.rk s.nu < s.size := bitrev_lt s.rk s.nu
        have hrk' : s.rk < s.size := hrk
        refine (readEl_swapEls_same hxr hyr hxi hyi b.part b.idx).trans (congrArg _ ?_)
        rw [Equiv.swap_apply_of_ne_of_ne]
        · exact (lt_of_lt_of_le hrk' hi).ne'
        · exact (lt_of_lt_of_le hrev hi).ne'
      · exact readEl_swapEls_ne hxr hyr hxi hyi hg
    | @notified g hst hrk hbuf =>
      split
      · obtain ⟨g', hbuf', hlong⟩ | hn : (∃ h, s.buf = some h ∧ s.mem.longEnough h s.size = true) ∨ s.buf = none := by
          cases hn : s.notified with
          | false => exact .inl ((h.reorder hst).buffer hn)
          | true => exact .inr ((h.reorder hst).given_up hn).1
        · obtain rfl : g' = g := Option.some.inj (hbuf'.symm.trans hbuf)
          refine State.readEl_redraw_foreign (s := { s with sched := ms })
            (Memory.isUnbound_of_longEnough s.size_pos hlong) (hb.imp_left fun hne heq => hne ?_)
          rw [heq]; exact hbuf
        · simp [hn] at hbuf
      · rfl
    | disabled | counted | nextRound | lastRound | roundsOver | passed | wentIdle | responded => rfl

/-- Settles O56: at power-on no agent has anything to do. -/
theorem engineInvariantAtReset : Obligations.EngineInvariantAtReset where
  busy := rfl
  memory := rfl
  configured := fun h => absurd rfl h
  resting := fun _ => ⟨⟨rfl, fun _ => rfl⟩, rfl⟩
  round := nofun
  reorder := nofun
  events := fun _ h => by cases h
  responses := rfl

/-- Settles O57. -/
theorem powerOnState : Obligations.PowerOnState :=
  ⟨rfl, rfl, rfl, rfl, rfl, fun _ => ⟨rfl, rfl⟩⟩

end Sys2Proof.Machine
end

section
/-! PROOFS. From every state of a transform the engine can go on by itself to its DONE and to idle (42_coordinator.md
R188). -/

namespace Sys2Proof.Machine

/-- The engine gets from `s` to `t` by moves of its own, which leave the host's list, the events and the registers of the
transform's completion alone. -/
structure State.LeadsTo (s t : State) : Prop where
  moves : ∃ ms, (∀ m ∈ ms, m ≠ .host) ∧ performAll ms s = .next t
  hostq : t.hostq = s.hostq
  evq : t.evq = s.evq
  buf : t.buf = s.buf
  cb : t.cb = s.cb

section
variable {s t u : State}

theorem State.LeadsTo.refl (s : State) : s.LeadsTo s := ⟨⟨[], nofun, rfl⟩, rfl, rfl, rfl, rfl⟩

theorem State.LeadsTo.trans (h : s.LeadsTo t) (g : t.LeadsTo u) : s.LeadsTo u := by
  obtain ⟨⟨l, hl, hst⟩, hhostq, hevq, hbuf, hcb⟩ := h
  obtain ⟨⟨l', hl', htu⟩, ghostq, gevq, gbuf, gcb⟩ := g
  refine ⟨⟨l ++ l', fun m hm => (List.mem_append.mp hm).elim (hl m) (hl' m), ?_⟩, ghostq.trans hhostq,
    gevq.trans hevq, gbuf.trans hbuf, gcb.trans hcb⟩
  rw [performAll_append, hst, andThen_next, htu]

theorem State.leadsTo_of_perform {m : Move} (h : perform m s = .next t) (hm : m ≠ .host) (hhostq : t.hostq = s.hostq)
    (hevq : t.evq = s.evq) (hbuf : t.buf = s.buf) (hcb : t.cb = s.cb) : s.LeadsTo t :=
  ⟨⟨[m], by simpa using hm, (performAll_singleton m s).trans h⟩, hhostq, hevq, hbuf, hcb⟩

/-! ### The rounds -/

/-- What is left of the rounds: the STRIDED rounds to come, each with the reports of all workers, and the reports of the
current round. -/
def State.roundsLeft (s : State) : Nat :=
  if s.st = .dist then (s.nt + 1) * (s.sul + 1 - Nat.log2 s.phase) + s.pack else s.pack

theorem State.AtWork.roundsLeft {w : Nat} (h : s.AtWork t w) : t.roundsLeft = s.roundsLeft := by
  simp only [State.roundsLeft, h.st, h.nt, h.sul, h.phase, h.pack]

/-- A whole command ends with a report. -/
theorem command_ackq {w : Nat} (he : enabled (.command w) s = true) (h : perform (.command w) s = .next t) :
    t.ackq ≠ [] := by
  obtain ⟨hw, hrun, c, cs, hc⟩ := enabled_command_iff.mp he
  rw [perform_command hw hrun hc, deliver_workerCommand] at h
  obtain ⟨u, -, hf⟩ := andThen_eq_next.mp h
  obtain ⟨v, -, ht⟩ := andThen_eq_next.mp hf
  cases ht
  simp

/-- So do the moves that are left of a command. -/
theorem movesLeft_atWork {w : Nat} (hw : w < s.nt) (hrun : (s.worker w).run = .running)
    (h : performAll (s.movesLeft w) s = .next t) : s.AtWork t w ∧ t.ackq ≠ [] := by
  rw [State.movesLeft, ← finish_eq_performAll hw hrun rfl] at h
  obtain ⟨v, hv, ht⟩ := andThen_eq_next.mp h
  cases ht
  exact ⟨(runWork_atWork hv).trans (v.atWork_sendAck w), by simp⟩

/-- In a round some worker can be made to report. -/
theorem State.Inv.leads_to_report (h : s.Inv) (hst : s.st = .dist ∨ s.st = .localPhase) :
    ∃ t, s.LeadsTo t ∧ t.Inv ∧ t.st = s.st ∧ t.roundsLeft = s.roundsLeft ∧ t.ackq ≠ [] := by
  by_cases hack : s.ackq = []
  · obtain ⟨w, hw, howes⟩ : ∃ w, w < s.nt ∧ s.owesReport w = true := by
      have hsome : 0 < (List.range s.nt).countP s.owesReport := by
        have howed := (h.round hst).owed
        have hpack := (h.round hst).some_owed
        simp only [hack, List.length_nil] at howed
        omega
      simpa using List.countP_pos_iff.mp hsome
    obtain ⟨b, -, -, hworkers⟩ := (h.round hst).buffer
    obtain hcmd | hrun := State.owesReport_iff.mp howes
    · have hwaits := State.waits_of_workerOk (hworkers w hw) hcmd
      have he : enabled (.command w) s = true := enabled_command_iff.mpr ⟨hw, hwaits.halted, _, _, hwaits.command⟩
      obtain ⟨t, ht, hinv, -⟩ := h.worker_goes_on (m := .command w) rfl
      have ha := perform_atWork (m := .command w) rfl ht
      exact ⟨t, State.leadsTo_of_perform ht nofun ha.hostq ha.evq ha.buf ha.cb, hinv, ha.st, ha.roundsLeft,
        command_ackq he ht⟩
    · obtain ⟨t, ht, hinv, -⟩ := h.worker_steps (s.movesLeft_forall w)
      obtain ⟨ha, hreport⟩ := movesLeft_atWork hw hrun ht
      refine ⟨t, ⟨⟨_, fun m hm => ?_, ht⟩, ha.hostq, ha.evq, ha.buf, ha.cb⟩, hinv, ha.st, ha.roundsLeft, hreport⟩
      obtain rfl | rfl | rfl := s.movesLeft_forall w m hm <;> nofun
  · exact ⟨s, .refl s, h, rfl, rfl, hack⟩

/-- Taking a report brings the rounds nearer to their end, or ends them. -/
theorem State.Inv.leads_on (h : s.Inv) (hack : s.ackq ≠ []) :
    ∃ t, s.LeadsTo t ∧ t.Inv ∧ (((t.st = .dist ∨ t.st = .localPhase) ∧ t.roundsLeft < s.roundsLeft) ∨
      (t.st = .reord ∧ t.notified = false)) := by
  have hn : 0 < s.ackq.length := List.length_pos_iff.mpr hack
  have hround := h.round (h.inRound_of_report hack)
  have hc := h.configured_of_round (h.inRound_of_report hack)
  obtain ⟨r, hp, -⟩ := hround.phaseOk
  have hlog : Nat.log2 s.phase = r := by rw [hp.phase, Nat.log2_two_pow]
  have hhigh := hp.high
  obtain ⟨t, ht⟩ := h.collect_goes_on 0
  have hlead : ∀ {u : State}, u = t → u.hostq = s.hostq → u.evq = s.evq → u.buf = s.buf → u.cb = s.cb → s.LeadsTo t :=
    fun hu h1 h2 h3 h4 => State.leadsTo_of_perform ht nofun (hu ▸ h1) (hu ▸ h2) (hu ▸ h3) (hu ▸ h4)
  refine ⟨t, ?_, h.perform ht, ?_⟩
  · cases perform_next ht with
    | worked hm => cases hm
    | disabled | counted | nextRound | lastRound | roundsOver => exact hlead rfl rfl rfl rfl rfl
  · cases perform_next ht with
    | worked hm => cases hm
    | disabled he => simp [enabled, hn.ne'] at he
    | counted hn hst hpack =>
      refine .inl ⟨hst, ?_⟩
      simp only [State.roundsLeft]
      split <;> omega
    | nextRound hn hst hpack hphase =>
      refine .inl ⟨.inl hst, ?_⟩
      have hlt : r < s.sul := by
        rw [hp.phase, hc.nt_eq] at hphase
        exact (Nat.pow_lt_pow_iff_right one_lt_two).mp hphase
      have hlog' : Nat.log2 (s.phase * 2) = r + 1 := by rw [hp.phase, ← Nat.pow_succ, Nat.log2_two_pow]
      obtain ⟨k, hk⟩ : ∃ k, s.sul + 1 - r = k + 1 := ⟨s.sul - r, by omega⟩
      simp only [State.roundsLeft, State.broadcast_st, State.broadcast_nt, State.broadcast_sul, State.broadcast_pack,
        hst, if_true, hlog, hlog', hpack, show s.sul + 1 - (r + 1) = k by omega, hk]
      have hmul : (s.nt + 1) * (k + 1) = (s.nt + 1) * k + (s.nt + 1) := Nat.mul_succ _ _
      omega
    | lastRound hn hst hpack hphase =>
      refine .inl ⟨.inr rfl, ?_⟩
      obtain ⟨k, hk⟩ : ∃ k, s.sul + 1 - r = k + 1 := ⟨s.sul - r, by omega⟩
      simp only [State.roundsLeft, State.broadcast_pack, hst, if_true, reduceCtorEq, if_false, hlog, hk]
      have hmul : (s.nt + 1) * (k + 1) = (s.nt + 1) * k + (s.nt + 1) := Nat.mul_succ _ _
      omega
    | roundsOver => exact .inr ⟨rfl, rfl⟩

/-- The rounds of a transform can be brought to their end. -/
theorem State.Inv.leads_to_reorder (h : s.Inv) (hst : s.st = .dist ∨ s.st = .localPhase) :
    ∃ t, s.LeadsTo t ∧ t.Inv ∧ t.st = .reord ∧ t.notified = false := by
  induction hn : s.roundsLeft using Nat.strong_induction_on generalizing s with
  | _ n ih =>
    obtain ⟨u, hsu, hu, -, hleft, hack⟩ := h.leads_to_report hst
    obtain ⟨v, huv, hv, ⟨hround, hless⟩ | ⟨hreord, hnot⟩⟩ := hu.leads_on hack
    · obtain ⟨t, hvt, ht, hreord, hnot⟩ := ih _ (by omega) hv hround rfl
      exact ⟨t, (hsu.trans huv).trans hvt, ht, hreord, hnot⟩
    · exact ⟨v, hsu.trans huv, hv, hreord, hnot⟩

/-! ### The reorder pass and the completion -/

/-- The reorder pass can be brought to its end. -/
theorem State.Inv.leads_to_end_of_pass (h : s.Inv) (hst : s.st = .reord) (hnot : s.notified = false) :
    ∃ t, s.LeadsTo t ∧ t.Inv ∧ t.st = .reord ∧ t.notified = false ∧ t.rk = t.size := by
  have hindex := (h.reorder hst).index
  induction hn : s.size - s.rk generalizing s with
  | zero => exact ⟨s, .refl s, h, hst, hnot, by omega⟩
  | succ n ih =>
    have hrk : s.rk < s.size := by omega
    obtain ⟨b, hbuf, hlong⟩ := (h.reorder hst).buffer hnot
    obtain ⟨m, hstep, -⟩ := perform_reorder_permutes hst hrk hbuf hlong
    have hnext : s.size - (s.rk + 1) = n := by omega
    obtain ⟨t, ht, hrest⟩ := ih (h.perform hstep) hst hnot hrk hnext
    exact ⟨t, (State.leadsTo_of_perform hstep nofun rfl rfl rfl rfl).trans ht, hrest⟩

/-- After the pass the completion is emitted and the engine returns to idle. -/
theorem completes_after_pass {b : Handle} (hst : s.st = .reord) (hnot : s.notified = false) (hrk : s.rk = s.size)
    (hbuf : s.buf = some b) :
    ∃ t, performAll [.notify, .toIdle] s = .next t ∧ t.st = .idle ∧ t.busy = false ∧ t.hostq = s.hostq ∧
      t.evq = s.evq ++ [encode (.done s.cb b)] := by
  obtain ⟨u, hu, hust, hunot, hhostq, hevq⟩ : ∃ u, perform .notify s = .next u ∧ u.st = .reord ∧ u.notified = true ∧
      u.hostq = s.hostq ∧ u.evq = s.evq ++ [encode (.done s.cb b)] := by
    rw [perform_notify hst hrk hnot, notify, hbuf]
    refine ⟨_, rfl, ?_⟩
    split <;> exact ⟨hst, rfl, rfl, rfl⟩
  refine ⟨toIdle u, ?_, rfl, rfl, hhostq, hevq⟩
  rw [performAll, hu, andThen_next, performAll_singleton, perform_toIdle hust hunot]

end

/-- Settles O60: the rounds, the reorder pass, the notify step and the return to idle, from wherever the transform is. -/
theorem everyTransformCanComplete : Obligations.EveryTransformCanComplete := by
  intro s h htransform
  by_cases hover : s.st = .reord ∧ s.notified = true
  · obtain ⟨hst, hnot⟩ := hover
    have hbuf := ((h.reorder hst).given_up hnot).1
    exact ⟨[.toIdle], toIdle s, by simp, (performAll_singleton _ s).trans (perform_toIdle hst hnot), rfl, rfl, rfl,
      fun b hb => by simp [hbuf] at hb, fun _ => rfl⟩
  · obtain ⟨u, hsu, hu, hust, hunot⟩ : ∃ u, s.LeadsTo u ∧ u.Inv ∧ u.st = .reord ∧ u.notified = false := by
      by_cases hst : s.st = .reord
      · exact ⟨s, .refl s, h, hst, by simpa [hst] using hover⟩
      · exact h.leads_to_reorder (by simpa [State.inTransform, hst] using htransform)
    obtain ⟨v, huv, hv, hvst, hvnot, hvrk⟩ := hu.leads_to_end_of_pass hust hunot
    obtain ⟨⟨ms, hms, hrun⟩, hhostq, hevq, hbuf, hcb⟩ := hsu.trans huv
    obtain ⟨b, hvbuf, -⟩ := (hv.reorder hvst).buffer hvnot
    obtain ⟨t, ht, htst, htbusy, hthostq, htevq⟩ := completes_after_pass hvst hvnot hvrk hvbuf
    have hsbuf : s.buf = some b := hbuf.symm.trans hvbuf
    refine ⟨ms ++ [.notify, .toIdle], t, fun m hm => ?_, ?_, htst, htbusy, hthostq.trans hhostq, fun c hc => ?_,
      fun hnone => by simp [hsbuf] at hnone⟩
    · obtain hm | hm := List.mem_append.mp hm
      · exact hms m hm
      · obtain rfl | rfl : m = .notify ∨ m = .toIdle := by simpa using hm
        all_goals nofun
    · rw [performAll_append, hrun, andThen_next, ht]
    · obtain rfl : b = c := Option.some.inj (hsbuf.symm.trans hc)
      rw [htevq, hevq, hcb]

end Sys2Proof.Machine
end

section
/-! PROOFS. The layout of a binary32 pattern: sign, magnitude pattern, and the value of a magnitude pattern (00_scope.md
R16). -/

namespace Sys2Proof.Machine.Binary32

/-- The magnitude pattern, bits 30:0: the exponent and the fraction side by side. -/
def low (a : Sample) : Nat := a.toNat % 2 ^ 31

/-- The value of a magnitude pattern, in units of `2^-149`. -/
def value (p : Nat) : Nat := if p / 2 ^ 23 = 0 then p else (2 ^ 23 + p % 2 ^ 23) * 2 ^ (p / 2 ^ 23 - 1)

theorem low_lt (a : Sample) : low a < 2 ^ 31 := Nat.mod_lt _ (by decide)

theorem expo_eq (a : Sample) : expo a = low a / 2 ^ 23 := by
  simp only [expo, low]
  omega

theorem frac_eq (a : Sample) : frac a = low a % 2 ^ 23 := by
  simp only [frac, low]
  omega

theorem sign_eq (a : Sample) : sign a = decide (2 ^ 31 ≤ a.toNat) := BitVec.msb_eq_decide a

theorem mag_eq (a : Sample) : mag a = value (low a) := by
  simp only [mag, value, expo_eq, frac_eq]
  split
  · omega
  · rfl

theorem isNaN_iff {a : Sample} : isNaN a = true ↔ infMag < low a := by
  have h := low_lt a
  simp only [isNaN, expo_eq, frac_eq, infMag, Bool.and_eq_true, beq_iff_eq, bne_iff_ne]
  omega

theorem isInf_iff {a : Sample} : isInf a = true ↔ low a = infMag := by
  have h := low_lt a
  simp only [isInf, expo_eq, frac_eq, infMag, Bool.and_eq_true, beq_iff_eq]
  omega

theorem isFinite_iff {a : Sample} : isFinite a = true ↔ low a < infMag := by
  have h := low_lt a
  simp only [isFinite, expo_eq, infMag, bne_iff_ne]
  omega

theorem isNaN_of_isFinite {a : Sample} (h : isFinite a = true) : isNaN a = false := by
  have h' := isFinite_iff.mp h
  rw [← Bool.not_eq_true, isNaN_iff]
  omega

theorem isInf_of_isFinite {a : Sample} (h : isFinite a = true) : isInf a = false := by
  have h' := isFinite_iff.mp h
  rw [← Bool.not_eq_true, isInf_iff]
  omega

theorem isNaN_of_isInf {a : Sample} (h : isInf a = true) : isNaN a = false := by
  have h' := isInf_iff.mp h
  rw [← Bool.not_eq_true, isNaN_iff]
  omega

theorem isFinite_of_isInf {a : Sample} (h : isInf a = true) : isFinite a = false := by
  have h' := isInf_iff.mp h
  rw [← Bool.not_eq_true, isFinite_iff]
  omega

/-! ### Patterns put together -/

theorem toNat_pack {m : Nat} (hm : m < 2 ^ 31) (s : Bool) : (pack s m).toNat = (if s then 2 ^ 31 else 0) + m := by
  rw [pack, BitVec.toNat_ofNat, Nat.mod_eq_of_lt]
  cases s <;> simp only [Bool.false_eq_true, if_true, if_false] <;> omega

theorem low_pack {m : Nat} (hm : m < 2 ^ 31) (s : Bool) : low (pack s m) = m := by
  rw [low, toNat_pack hm]
  cases s <;> simp only [Bool.false_eq_true, if_true, if_false] <;> omega

theorem sign_pack {m : Nat} (hm : m < 2 ^ 31) (s : Bool) : sign (pack s m) = s := by
  rw [sign_eq, toNat_pack hm]
  cases s <;> simp only [Bool.false_eq_true, if_true, if_false, decide_eq_false_iff_not, decide_eq_true_eq] <;> omega

/-- A pattern is its sign and its magnitude pattern. -/
theorem pack_sign_low (a : Sample) : pack (sign a) (low a) = a := by
  apply BitVec.eq_of_toNat_eq
  have h := a.isLt
  rw [toNat_pack (low_lt a), sign_eq, low]
  by_cases hs : 2 ^ 31 ≤ a.toNat <;> simp only [hs, decide_true, decide_false, Bool.false_eq_true, if_true, if_false] <;>
    omega

theorem low_neg (a : Sample) : low (neg a) = low a := by
  simp only [low, neg, BitVec.toNat_xor, Nat.xor_mod_two_pow]
  simp

theorem sign_neg (a : Sample) : sign (neg a) = !sign a := by
  have htop : (0x80000000#32).msb = true := by decide
  rw [sign, neg, BitVec.msb_xor, htop, Bool.xor_true, sign]

theorem isNaN_neg (a : Sample) : isNaN (neg a) = isNaN a := by rw [Bool.eq_iff_iff, isNaN_iff, isNaN_iff, low_neg]

theorem isInf_neg (a : Sample) : isInf (neg a) = isInf a := by rw [Bool.eq_iff_iff, isInf_iff, isInf_iff, low_neg]

theorem isFinite_neg (a : Sample) : isFinite (neg a) = isFinite a := by
  rw [Bool.eq_iff_iff, isFinite_iff, isFinite_iff, low_neg]

theorem units_neg (a : Sample) : units (neg a) = -units a := by
  simp only [units, sign_neg, mag_eq, low_neg]
  cases sign a <;> simp

theorem units_eq_zero {a : Sample} (h : mag a = 0) : units a = 0 := by simp [units, h]

theorem natAbs_units (a : Sample) : (units a).natAbs = mag a := by
  simp only [units]
  split <;> simp

end Sys2Proof.Machine.Binary32
end

section
/-! PROOFS. NaNs, infinities and zeros in the operations (41_worker.md R141 (e), (g)). -/

namespace Sys2Proof.Machine

open Binary32

theorem isNaN_mkNaN (s : Bool) (f : Fin 8388607) : isNaN (mkNaN s f) = true := by
  have hf := f.isLt
  have hm : infMag + f.val + 1 < 2 ^ 31 := by simp only [infMag]; omega
  rw [isNaN_iff, mkNaN, low_pack hm]
  omega

theorem isNaN_nanDraw (t : Nat) : isNaN (nanDraw t) = true := isNaN_mkNaN _ _

/-- Settles O18: the fraction of a NaN lies from 1 to `2^23 - 1`. -/
theorem everyNaNCanBeDrawn : Obligations.EveryNaNCanBeDrawn := by
  refine ⟨isNaN_nanDraw, fun a ha => ?_⟩
  have hnan := isNaN_iff.mp ha
  have hlow := low_lt a
  have hf : low a - infMag - 1 < 8388607 := by simp only [infMag] at hnan ⊢; omega
  refine ⟨sign a, ⟨low a - infMag - 1, hf⟩, ?_⟩
  have hm : infMag + (low a - infMag - 1) + 1 = low a := by omega
  rw [mkNaN, hm, pack_sign_low]

section
variable {nan a b : Sample}

theorem fadd_nan (h : isNaN a = true ∨ isNaN b = true) : fadd nan a b = nan := by
  obtain h | h := h <;> simp [fadd, h]

theorem fmul_nan (h : isNaN a = true ∨ isNaN b = true) : fmul nan a b = nan := by
  obtain h | h := h <;> simp [fmul, h]

/-- The sum of two values, neither a NaN nor an infinity. -/
theorem fadd_finite (ha : isFinite a = true) (hb : isFinite b = true) :
    fadd nan a b = if units a + units b = 0 then pack (sign a && sign b) 0
      else pack (decide (units a + units b < 0)) (roundMag (units a + units b).natAbs 0) := by
  simp [fadd, isNaN_of_isFinite ha, isNaN_of_isFinite hb, isInf_of_isFinite ha, isInf_of_isFinite hb]

/-- The product of two values, neither a NaN nor an infinity. -/
theorem fmul_finite (ha : isFinite a = true) (hb : isFinite b = true) :
    fmul nan a b = pack (sign a != sign b) (roundMag (mag a * mag b) 149) := by
  simp [fmul, isNaN_of_isFinite ha, isNaN_of_isFinite hb, isInf_of_isFinite ha, isInf_of_isFinite hb]

theorem fadd_inf_finite (ha : isInf a = true) (hb : isFinite b = true) :
    fadd nan a b = a ∧ fadd nan b a = a := by
  simp [fadd, isNaN_of_isInf ha, isNaN_of_isFinite hb, isInf_of_isFinite hb, ha]

theorem fadd_inf_inf (ha : isInf a = true) (hb : isInf b = true) :
    fadd nan a b = if sign a = sign b then a else nan := by
  by_cases hs : sign a = sign b <;> simp [fadd, isNaN_of_isInf ha, isNaN_of_isInf hb, ha, hb, hs]

theorem fmul_inf_finite (ha : isInf a = true) (hb : isFinite b = true) :
    fmul nan a b = (if mag b = 0 then nan else pack (sign a != sign b) infMag) ∧
      fmul nan b a = (if mag b = 0 then nan else pack (sign b != sign a) infMag) := by
  simp [fmul, isNaN_of_isInf ha, isNaN_of_isFinite hb, isFinite_of_isInf ha, ha, hb]

@[simp] theorem roundMag_zero (k : Nat) : roundMag 0 k = 0 := by
  simp [roundMag, dropped, shiftRound, Nat.log2_zero]

/-- Settles O17. -/
theorem specialOperands : Obligations.SpecialOperands := by
  intro nan a b
  refine ⟨fun h => ⟨fadd_nan h, fadd_nan (by rwa [isNaN_neg]), fmul_nan h⟩, fun ha hb => ?_, fun ha hb => ?_,
    fun ha => ?_, fun ha hb ha0 hb0 => ?_⟩
  · refine ⟨fun hs => by rw [fadd_inf_inf ha hb, if_neg hs], fun hs => ⟨by rw [fadd_inf_inf ha hb, if_pos hs], ?_⟩⟩
    rw [fsub, fadd_inf_inf ha ((isInf_neg b).trans hb), sign_neg, hs, if_neg (by simp)]
  · obtain ⟨hab, hba⟩ := fadd_inf_finite (nan := nan) ha hb
    obtain ⟨mab, mba⟩ := fmul_inf_finite (nan := nan) ha hb
    have hinf : infMag < 2 ^ 31 := by decide
    refine ⟨hab, hba, (fadd_inf_finite ha ((isFinite_neg b).trans hb)).1, fun h0 => ?_, fun h0 => ?_⟩
    · rw [mab, mba, if_pos h0, if_pos h0]
      exact ⟨rfl, rfl⟩
    · rw [mab, if_neg h0, isInf_iff, low_pack hinf, sign_pack hinf]
      exact ⟨rfl, rfl⟩
  · rw [fsub, fadd_finite ha ((isFinite_neg a).trans ha), units_neg, if_pos (by omega), sign_neg, Bool.and_not_self]
    rfl
  · rw [fadd_finite ha hb, fmul_finite ha hb, units_eq_zero ha0, units_eq_zero hb0, ha0]
    cases sign a <;> cases sign b <;> simp [pack]

end

/-! ### Results without a NaN -/

/-- An operation answers the NaN drawn for it, or it does not use it. -/
theorem fadd_ignores_draw {nan a b : Sample} (hnan : isNaN nan = true) (h : isNaN (fadd nan a b) = false) (nan' : Sample) :
    isNaN a = false ∧ isNaN b = false ∧ fadd nan' a b = fadd nan a b := by
  unfold fadd at h ⊢
  split_ifs at h ⊢ <;> simp_all

theorem fmul_ignores_draw {nan a b : Sample} (hnan : isNaN nan = true) (h : isNaN (fmul nan a b) = false) (nan' : Sample) :
    fmul nan' a b = fmul nan a b := by
  unfold fmul at h ⊢
  split_ifs at h ⊢ <;> simp_all

theorem fsub_ignores_draw {nan a b : Sample} (hnan : isNaN nan = true) (h : isNaN (fsub nan a b) = false) (nan' : Sample) :
    isNaN a = false ∧ isNaN b = false ∧ fsub nan' a b = fsub nan a b := by
  obtain ⟨ha, hb, heq⟩ := fadd_ignores_draw hnan h nan'
  exact ⟨ha, (isNaN_neg b).symm.trans hb, heq⟩

section
variable {nan nan' : Nat → Sample} {c s br bi : Sample} (hnan : ∀ j, isNaN (nan j) = true)
include hnan

theorem bflyTr_ignores_draws (h : isNaN (bflyTr nan c s br bi) = false) :
    bflyTr nan' c s br bi = bflyTr nan c s br bi := by
  obtain ⟨h1, h2, heq⟩ := fadd_ignores_draw (hnan 2) h (nan' 2)
  rw [bflyTr, fmul_ignores_draw (hnan 0) h1, fmul_ignores_draw (hnan 1) h2, heq, bflyTr]

theorem bflyTi_ignores_draws (h : isNaN (bflyTi nan c s br bi) = false) :
    bflyTi nan' c s br bi = bflyTi nan c s br bi := by
  obtain ⟨h1, h2, heq⟩ := fsub_ignores_draw (hnan 5) h (nan' 5)
  rw [bflyTi, fmul_ignores_draw (hnan 3) h1, fmul_ignores_draw (hnan 4) h2, heq, bflyTi]

end

/-- Settles O19: a result without a NaN has operands without one, down to the inputs. -/
theorem nanFreeButterflyIgnoresDraws : Obligations.NanFreeButterflyIgnoresDraws := by
  intro nan nan' c s ar ai br bi hnan _ h1 h2 h3 h4
  obtain ⟨-, htr, hr1⟩ := fadd_ignores_draw (hnan 8) h1 (nan' 8)
  obtain ⟨-, hti, hi1⟩ := fadd_ignores_draw (hnan 9) h2 (nan' 9)
  obtain ⟨-, -, hr2⟩ := fsub_ignores_draw (hnan 6) h3 (nan' 6)
  obtain ⟨-, -, hi2⟩ := fsub_ignores_draw (hnan 7) h4 (nan' 7)
  simp only [bflyLegs, bflyTr_ignores_draws (nan' := nan') hnan htr, bflyTi_ignores_draws (nan' := nan') hnan hti, hr1,
    hi1, hr2, hi2]

end Sys2Proof.Machine
end

section
/-! PROOFS. Rounding to nearest, ties to even, and overflow (41_worker.md R141 (b), (d), (e)). -/

namespace Sys2Proof.Machine.Binary32

/-! ### Rounding to a grid -/

/-- What is rounded to `2^t` lies at most half of it away, and exactly half only if the result is even. -/
theorem shiftRound_near (m t : Nat) :
    2 * ((shiftRound m t * 2 ^ t : Nat) - (m : Int)).natAbs ≤ 2 ^ t ∧
      (2 * ((shiftRound m t * 2 ^ t : Nat) - (m : Int)).natAbs = 2 ^ t → shiftRound m t % 2 = 0) := by
  have hdiv := Nat.div_add_mod' m (2 ^ t)
  have hmod : m % 2 ^ t < 2 ^ t := Nat.mod_lt _ (Nat.two_pow_pos t)
  simp only [shiftRound]
  generalize m / 2 ^ t = q at *
  generalize m % 2 ^ t = r at *
  split_ifs with hup
  · have hnext : (q + 1) * 2 ^ t = q * 2 ^ t + 2 ^ t := Nat.succ_mul _ _
    omega
  · omega

/-- No multiple of `2^t` is nearer to `m`, and another one is as near only if the result is even. -/
theorem shiftRound_nearest (m t j : Nat) :
    ((shiftRound m t * 2 ^ t : Nat) - (m : Int)).natAbs ≤ ((j * 2 ^ t : Nat) - (m : Int)).natAbs ∧
      (((shiftRound m t * 2 ^ t : Nat) - (m : Int)).natAbs = ((j * 2 ^ t : Nat) - (m : Int)).natAbs →
        j ≠ shiftRound m t → shiftRound m t % 2 = 0) := by
  obtain ⟨hnear, htie⟩ := shiftRound_near m t
  obtain rfl | hne := eq_or_ne j (shiftRound m t)
  · exact ⟨le_rfl, fun _ h => absurd rfl h⟩
  · have hgap : 2 ^ t ≤ ((j * 2 ^ t : Nat) - (shiftRound m t * 2 ^ t : Nat) : Int).natAbs := by
      obtain hlt | hlt := Nat.lt_or_gt_of_ne hne
      · have hstep : (j + 1) * 2 ^ t ≤ shiftRound m t * 2 ^ t := Nat.mul_le_mul_right _ hlt
        rw [Nat.succ_mul] at hstep
        omega
      · have hstep : (shiftRound m t + 1) * 2 ^ t ≤ j * 2 ^ t := Nat.mul_le_mul_right _ hlt
        rw [Nat.succ_mul] at hstep
        omega
    exact ⟨by omega, fun heq _ => htie (by omega)⟩

/-! ### The pattern of a rounded value -/

/-- A significand of 24 bits, at exponent `e`, has the pattern `e * 2^23 + q`; a carry out of it is the next exponent. -/
theorem value_significand {e q : Nat} (hq : q ≤ 2 ^ 24) (hnormal : e = 0 ∨ 2 ^ 23 ≤ q) :
    value (e * 2 ^ 23 + q) = q * 2 ^ e := by
  have hvalue : ∀ x f, f < 2 ^ 23 → value ((x + 1) * 2 ^ 23 + f) = (2 ^ 23 + f) * 2 ^ x := fun x f hf => by
    have hdiv : ((x + 1) * 2 ^ 23 + f) / 2 ^ 23 = x + 1 := by omega
    have hmod : ((x + 1) * 2 ^ 23 + f) % 2 ^ 23 = f := by omega
    rw [value, hdiv, hmod, if_neg (Nat.succ_ne_zero x), Nat.add_sub_cancel]
  obtain hsmall | hlarge := Nat.lt_or_ge q (2 ^ 23)
  · obtain rfl : e = 0 := hnormal.resolve_right (Nat.not_le.mpr hsmall)
    rw [Nat.zero_mul, Nat.zero_add, value, if_pos (Nat.div_eq_of_lt hsmall), Nat.pow_zero, Nat.mul_one]
  · obtain hcarry | hlt := Nat.eq_or_lt_of_le hq
    · have hnext : e * 2 ^ 23 + q = (e + 1 + 1) * 2 ^ 23 + 0 := by omega
      rw [hnext, hvalue (e + 1) 0 (by decide), hcarry, Nat.pow_succ]
      omega
    · obtain ⟨f, rfl⟩ := Nat.exists_eq_add_of_le hlarge
      have hnext : e * 2 ^ 23 + (2 ^ 23 + f) = (e + 1) * 2 ^ 23 + f := by omega
      rw [hnext, hvalue e f (by omega)]

/-- A value is on the grid of exponent `e`, or it lies below all values of that exponent. -/
theorem dvd_value_or_lt (c e : Nat) : 2 ^ e ∣ value c ∨ value c < 2 ^ 23 * 2 ^ e := by
  rw [value]
  split_ifs with hsub
  · have hpos : 2 ^ 23 * 1 ≤ 2 ^ 23 * 2 ^ e := Nat.mul_le_mul_left _ Nat.one_le_two_pow
    exact .inr (by omega)
  · obtain hle | hlt := le_or_gt e (c / 2 ^ 23 - 1)
    · exact .inl (Dvd.dvd.mul_left (pow_dvd_pow 2 hle) _)
    · right
      have hfrac : c % 2 ^ 23 < 2 ^ 23 := Nat.mod_lt _ (by decide)
      calc (2 ^ 23 + c % 2 ^ 23) * 2 ^ (c / 2 ^ 23 - 1)
          < 2 ^ 24 * 2 ^ (c / 2 ^ 23 - 1) := Nat.mul_lt_mul_of_pos_right (by omega) (Nat.two_pow_pos _)
        _ = 2 ^ 23 * 2 ^ (c / 2 ^ 23 - 1 + 1) := by rw [Nat.pow_succ 2 (c / 2 ^ 23 - 1)]; omega
        _ ≤ 2 ^ 23 * 2 ^ e := Nat.mul_le_mul_left _ (Nat.pow_le_pow_right two_pos hlt)

theorem shiftRound_bounds (m t : Nat) : m / 2 ^ t ≤ shiftRound m t ∧ shiftRound m t ≤ m / 2 ^ t + 1 := by
  simp only [shiftRound]
  split_ifs <;> omega

/-- The exponent that rounding `m * 2^-k` gives. -/
def roundExpo (m k : Nat) : Nat := dropped m k - k

/-- The significand that rounding `m * 2^-k` gives. -/
def roundSig (m k : Nat) : Nat := shiftRound m (dropped m k)

theorem roundMag_eq (m k : Nat) : roundMag m k = min infMag (roundExpo m k * 2 ^ 23 + roundSig m k) := rfl

theorem dropped_eq (m k : Nat) : dropped m k = roundExpo m k + k := by
  simp only [roundExpo, dropped]
  omega

/-- Twenty-four bits are kept. -/
theorem lt_two_pow_dropped (m k : Nat) : m < 2 ^ 24 * 2 ^ dropped m k := by
  rw [← Nat.pow_add]
  refine lt_of_lt_of_le Nat.lt_log2_self (Nat.pow_le_pow_right two_pos ?_)
  simp only [dropped]
  omega

/-- Where the exponent is not the least, the leading one of the twenty-four bits is set. -/
theorem two_pow_dropped_le {m k : Nat} (he : roundExpo m k ≠ 0) : 2 ^ 23 * 2 ^ dropped m k ≤ m := by
  have hlog : 23 + dropped m k = Nat.log2 m := by
    simp only [roundExpo, dropped] at he ⊢
    omega
  have hm : m ≠ 0 := by
    rintro rfl
    rw [Nat.log2_zero] at hlog
    omega
  rw [← Nat.pow_add, hlog]
  exact Nat.log2_self_le hm

theorem roundSig_le (m k : Nat) : roundSig m k ≤ 2 ^ 24 := by
  have hlt : m / 2 ^ dropped m k < 2 ^ 24 :=
    Nat.div_lt_of_lt_mul (by rw [Nat.mul_comm]; exact lt_two_pow_dropped m k)
  have hle := (shiftRound_bounds m (dropped m k)).2
  simp only [roundSig]
  omega

theorem roundSig_normal (m k : Nat) : roundExpo m k = 0 ∨ 2 ^ 23 ≤ roundSig m k := by
  by_cases he : roundExpo m k = 0
  · exact .inl he
  · have hle : 2 ^ 23 ≤ m / 2 ^ dropped m k := (Nat.le_div_iff_mul_le (Nat.two_pow_pos _)).mpr (two_pow_dropped_le he)
    exact .inr (hle.trans (shiftRound_bounds m _).1)

/-- Rounding overflows exactly from half a unit of the last place below `2^128` on (R141 (e)). -/
theorem infMag_le_round_iff (m k : Nat) :
    infMag ≤ roundExpo m k * 2 ^ 23 + roundSig m k ↔ (2 ^ 25 - 1) * 2 ^ 252 * 2 ^ k ≤ m := by
  have hq := roundSig_le m k
  have hd := dropped_eq m k
  rw [Nat.mul_assoc, ← Nat.pow_add, infMag]
  obtain hlt | heq | hgt := Nat.lt_trichotomy (roundExpo m k) 253
  · have hpow : 2 ^ dropped m k ≤ 2 ^ (252 + k) := Nat.pow_le_pow_right two_pos (by omega)
    have hm := lt_two_pow_dropped m k
    omega
  · have hpow : 2 ^ dropped m k = 2 * 2 ^ (252 + k) := by
      rw [← Nat.pow_succ', hd, heq]
      congr 1
      omega
    have hround := shiftRound_near m (dropped m k)
    rw [hpow, show shiftRound m (dropped m k) = roundSig m k from rfl] at hround
    obtain ⟨hnear, htie⟩ := hround
    have hpos : 0 < 2 ^ (252 + k) := Nat.two_pow_pos _
    rw [heq]
    generalize roundSig m k = q at *
    generalize 2 ^ (252 + k) = half at *
    obtain hcarry | hodd | hless : q = 2 ^ 24 ∨ q = 2 ^ 24 - 1 ∨ q + 1 ≤ 2 ^ 24 - 1 := by omega
    · subst hcarry
      omega
    · subst hodd
      omega
    · have hstep := Nat.mul_le_mul_right (2 * half) hless
      rw [Nat.succ_mul] at hstep
      omega
  · have hpow : 2 * (2 * 2 ^ (252 + k)) ≤ 2 ^ dropped m k := by
      rw [← Nat.pow_succ', ← Nat.pow_succ']
      exact Nat.pow_le_pow_right two_pos (by simp only [Nat.succ_eq_add_one]; omega)
    have hm := two_pow_dropped_le (show roundExpo m k ≠ 0 by omega)
    have hnormal := (roundSig_normal m k).resolve_left (by omega)
    omega

/-- No value is nearer to `m * 2^-k` than the rounded one, and another is as near only if the pattern is even. -/
theorem roundMag_nearest {m k : Nat} (hfin : roundMag m k < infMag) (c : Nat) :
    ((2 ^ k * value (roundMag m k) : Nat) - (m : Int)).natAbs ≤ ((2 ^ k * value c : Nat) - (m : Int)).natAbs ∧
      (((2 ^ k * value (roundMag m k) : Nat) - (m : Int)).natAbs = ((2 ^ k * value c : Nat) - (m : Int)).natAbs →
        value c ≠ value (roundMag m k) → roundMag m k % 2 = 0) := by
  have hp : roundMag m k = roundExpo m k * 2 ^ 23 + roundSig m k := by
    rw [roundMag_eq] at hfin ⊢
    omega
  have hvalue : value (roundMag m k) = roundSig m k * 2 ^ roundExpo m k := by
    rw [hp, value_significand (roundSig_le m k) (roundSig_normal m k)]
  have hgrid : ∀ j, 2 ^ k * (j * 2 ^ roundExpo m k) = j * 2 ^ dropped m k := fun j => by
    rw [dropped_eq, Nat.pow_add]
    ring
  have hparity : roundMag m k % 2 = roundSig m k % 2 := by omega
  have hnearest := shiftRound_nearest m (dropped m k)
  rw [show shiftRound m (dropped m k) = roundSig m k from rfl] at hnearest
  rw [hparity, hvalue, hgrid]
  by_cases hdvd : 2 ^ roundExpo m k ∣ value c
  · obtain ⟨j, hj⟩ := hdvd
    rw [hj, Nat.mul_comm _ j, hgrid]
    exact ⟨(hnearest j).1, fun heq hne => (hnearest j).2 heq fun h => hne (by rw [h])⟩
  · have hbelow : 2 ^ k * value c < 2 ^ 23 * 2 ^ dropped m k := by
      rw [← hgrid]
      exact Nat.mul_lt_mul_of_pos_left ((dvd_value_or_lt c _).resolve_left hdvd) (Nat.two_pow_pos k)
    have hm := two_pow_dropped_le (m := m) (k := k) fun he => hdvd (by rw [he]; exact one_dvd _)
    have hnear := (hnearest (2 ^ 23)).1
    exact ⟨by omega, fun heq => by omega⟩

/-! ### The rounded value with its sign -/

/-- `x` with the sign `s`. -/
def signedInt (s : Bool) (x : Nat) : Int := if s then -(x : Int) else x

theorem units_eq (a : Sample) : units a = signedInt (sign a) (value (low a)) := by rw [units, mag_eq, signedInt]

theorem natAbs_signedInt (s : Bool) (x : Nat) : (signedInt s x).natAbs = x := by
  cases s <;> simp [signedInt]

theorem mul_signedInt (n : Nat) (s : Bool) (x : Nat) : (n : Int) * signedInt s x = signedInt s (n * x) := by
  cases s <;> simp [signedInt]

theorem roundMag_lt (m k : Nat) : roundMag m k < 2 ^ 31 :=
  lt_of_le_of_lt (Nat.min_le_left _ _) (by decide : infMag < 2 ^ 31)

variable (s : Bool) (m k : Nat)

theorem units_round : units (pack s (roundMag m k)) = signedInt s (value (roundMag m k)) := by
  rw [units_eq, sign_pack (roundMag_lt m k), low_pack (roundMag_lt m k)]

theorem isNaN_round : isNaN (pack s (roundMag m k)) = false := by
  rw [← Bool.not_eq_true, isNaN_iff, low_pack (roundMag_lt m k), Nat.not_lt]
  exact Nat.min_le_left _ _

theorem isInf_round_iff : isInf (pack s (roundMag m k)) = true ↔ (2 ^ 25 - 1) * 2 ^ 252 * 2 ^ k ≤ m := by
  rw [isInf_iff, low_pack (roundMag_lt m k), roundMag_eq, min_eq_left_iff, infMag_le_round_iff]

theorem isFinite_round_iff : isFinite (pack s (roundMag m k)) = true ↔ roundMag m k < infMag := by
  rw [isFinite_iff, low_pack (roundMag_lt m k)]

theorem round_mod_two : (pack s (roundMag m k)).toNat % 2 = roundMag m k % 2 := by
  rw [toNat_pack (roundMag_lt m k)]
  cases s <;> simp only [Bool.false_eq_true, if_true, if_false] <;> omega

variable {s m k}

/-- The rounded value is nearest among the finite values of both signs. -/
theorem round_nearest (hfin : isFinite (pack s (roundMag m k)) = true) (c : Sample) :
    ((2 ^ k : Nat) * units (pack s (roundMag m k)) - signedInt s m).natAbs ≤
        ((2 ^ k : Nat) * units c - signedInt s m).natAbs ∧
      (((2 ^ k : Nat) * units (pack s (roundMag m k)) - signedInt s m).natAbs =
          ((2 ^ k : Nat) * units c - signedInt s m).natAbs →
        units c ≠ units (pack s (roundMag m k)) → (pack s (roundMag m k)).toNat % 2 = 0) := by
  obtain ⟨hnear, htie⟩ := roundMag_nearest ((isFinite_round_iff s m k).mp hfin) (low c)
  have hzero : m = 0 → roundMag m k % 2 = 0 := by
    rintro rfl
    rw [roundMag_zero]
  have hpos : 0 < 2 ^ k := Nat.two_pow_pos k
  have hprod : 2 ^ k * value (low c) = 0 → value (low c) = 0 := fun h => (Nat.mul_eq_zero.mp h).resolve_left hpos.ne'
  rw [round_mod_two, units_round, units_eq c, mul_signedInt, mul_signedInt]
  generalize value (roundMag m k) = y at *
  generalize value (low c) = x at *
  generalize 2 ^ k * x = scaled at *
  generalize 2 ^ k * y = rounded at *
  cases s <;> cases sign c <;> simp only [signedInt, Bool.false_eq_true, if_true, if_false] <;> omega

end Sys2Proof.Machine.Binary32
end

section
/-! PROOFS. The sum and the product of finite values, rounded once. -/

namespace Sys2Proof.Machine

open Binary32

/-- An integer is its magnitude with its sign. -/
theorem signedInt_natAbs (S : Int) : signedInt (decide (S < 0)) S.natAbs = S := by
  by_cases h : S < 0 <;> simp only [signedInt, h, decide_true, decide_false, Bool.false_eq_true, if_true, if_false] <;>
    omega

/-- A sum of finite values is the rounded sum, of the sum's sign unless the sum is zero. -/
theorem fadd_round {nan a b : Sample} (ha : isFinite a = true) (hb : isFinite b = true) :
    ∃ s, fadd nan a b = pack s (roundMag (units a + units b).natAbs 0) ∧
      signedInt s (units a + units b).natAbs = units a + units b ∧
      (units a + units b ≠ 0 → s = decide (units a + units b < 0)) := by
  rw [fadd_finite ha hb]
  split_ifs with hzero
  · refine ⟨sign a && sign b, ?_, ?_, absurd hzero⟩
    · rw [hzero, Int.natAbs_zero, roundMag_zero]
    · rw [hzero]
      cases sign a && sign b <;> rfl
  · exact ⟨_, rfl, signedInt_natAbs _, fun _ => rfl⟩

/-- Settles O15. -/
theorem faddRoundsToNearestEven : Obligations.FaddRoundsToNearestEven := by
  intro nan a b ha hb
  obtain ⟨s, hsum, hS, hs⟩ := fadd_round (nan := nan) ha hb
  have hinf := isInf_round_iff s (units a + units b).natAbs 0
  rw [hsum, isNaN_round, hinf, sign_pack (roundMag_lt _ _), Nat.pow_zero, Nat.mul_one]
  refine ⟨rfl, Iff.rfl, fun hover => hs ?_, fun hfin c _ => ?_⟩
  · intro hzero
    rw [hzero] at hover
    exact absurd hover (by decide)
  · have hnearest := round_nearest hfin c
    rwa [hS, Nat.pow_zero, Nat.cast_one, one_mul, one_mul] at hnearest

/-- The exact product has the exclusive or of the signs. -/
theorem signedInt_mag_mul (a b : Sample) : signedInt (sign a != sign b) (mag a * mag b) = units a * units b := by
  simp only [units]
  cases sign a <;> cases sign b <;> simp [signedInt]

/-- Settles O16. -/
theorem fmulRoundsToNearestEven : Obligations.FmulRoundsToNearestEven := by
  intro nan a b ha hb
  rw [fmul_finite ha hb, isNaN_round, sign_pack (roundMag_lt _ _), isInf_round_iff, Int.natAbs_mul, natAbs_units,
    natAbs_units, ← signedInt_mag_mul]
  exact ⟨rfl, rfl, Iff.rfl, fun hfin c _ => round_nearest hfin c⟩

end Sys2Proof.Machine
end

section
/-! PROOFS. Symmetries of the twiddle table (40_lut_bitrev.md R124, R125): they are the symmetries of the sine over the
turn of `2^32` units. -/

namespace Sys2Proof.Machine.Twiddle

open Binary32

/-! ### A magnitude with its sign -/

theorem quarterSin_lt (r : Nat) : quarterSin r < 2 ^ 31 := by
  rw [quarterSin]
  split_ifs
  · exact roundMag_lt _ _
  · exact roundMag_lt _ _

theorem signed_zero (s : Bool) : signed s 0 = pack false 0 := by simp [signed]

theorem low_signed {m : Nat} (hm : m < 2 ^ 31) (s : Bool) : low (signed s m) = m := low_pack hm _

theorem units_signed_not {m : Nat} (hm : m < 2 ^ 31) (s : Bool) : units (signed (!s) m) = -units (signed s m) := by
  obtain rfl | hne := Nat.eq_zero_or_pos m
  · rw [signed_zero, signed_zero]
    rfl
  · have hbne : (m != 0) = true := bne_iff_ne.mpr hne.ne'
    simp only [signed, hbne, Bool.and_true, units_eq, sign_pack hm, low_pack hm, signedInt]
    cases s <;> simp

/-! ### The sine over a turn -/

/-- The angle of the first quadrant whose sine has the magnitude of that at `t`. -/
def fold (t : Nat) : Nat := min (t % 2 ^ 31) (2 ^ 31 - t % 2 ^ 31)

theorem sinTurn_eq (t : Nat) : sinTurn t = signed (decide (t / 2 ^ 31 % 2 = 1)) (quarterSin (fold t)) := by
  rw [sinTurn]
  split_ifs with h0 h1 h2
  · rw [decide_eq_false (by omega), show fold t = t % 2 ^ 30 by simp only [fold]; omega]
  · rw [decide_eq_false (by omega), show fold t = 2 ^ 30 - t % 2 ^ 30 by simp only [fold]; omega]
  · rw [decide_eq_true (by omega), show fold t = t % 2 ^ 30 by simp only [fold]; omega]
  · rw [decide_eq_true (by omega), show fold t = 2 ^ 30 - t % 2 ^ 30 by simp only [fold]; omega]

set_option maxRecDepth 4000 in
theorem quarterSin_zero : quarterSin 0 = 0 := by decide

set_option maxRecDepth 4000 in
theorem quarterSin_eighth : quarterSin (2 ^ 29) = 0x3F3504F3 := by decide

set_option maxRecDepth 4000 in
theorem quarterSin_quarter : quarterSin (2 ^ 30) = 0x3F800000 := by decide

theorem sinTurn_of_dvd {t : Nat} (h : t % 2 ^ 31 = 0) : sinTurn t = 0x00000000#32 := by
  rw [sinTurn_eq, show fold t = 0 by simp only [fold]; omega, quarterSin_zero, signed_zero]
  rfl

/-- `sin (π - x) = sin x`. -/
theorem sinTurn_supplement {t u : Nat} (h : (t + u) % 2 ^ 32 = 2 ^ 31) : sinTurn t = sinTurn u := by
  by_cases hzero : t % 2 ^ 31 = 0
  · rw [sinTurn_of_dvd hzero, sinTurn_of_dvd (by omega)]
  · have hfold : fold t = fold u := by simp only [fold]; omega
    have hsign : decide (t / 2 ^ 31 % 2 = 1) = decide (u / 2 ^ 31 % 2 = 1) := decide_eq_decide.mpr (by omega)
    rw [sinTurn_eq, sinTurn_eq, hfold, hsign]

/-- `sin (x + π) = - sin x`, of the values. -/
theorem units_sinTurn_half (t : Nat) : units (sinTurn (t + 2 ^ 31)) = -units (sinTurn t) := by
  have hfold : fold (t + 2 ^ 31) = fold t := by simp only [fold]; omega
  have hsign : decide ((t + 2 ^ 31) / 2 ^ 31 % 2 = 1) = !decide (t / 2 ^ 31 % 2 = 1) := by
    rw [← decide_not, decide_eq_decide]
    omega
  rw [sinTurn_eq, sinTurn_eq, hfold, hsign, units_signed_not (quarterSin_lt _)]

/-- `cos (2π - x) = cos x`. -/
theorem cosTurn_reflect {t u : Nat} (h : t + u = 2 ^ 32) : cosTurn t = cosTurn u := sinTurn_supplement (by omega)

/-- `sin (2π - x) = - sin x`, of the values. -/
theorem units_sinTurn_reflect {t u : Nat} (h : t + u = 2 ^ 32) : units (sinTurn t) = -units (sinTurn u) := by
  rw [sinTurn_supplement (show (t + (u + 2 ^ 31)) % 2 ^ 32 = 2 ^ 31 by omega), units_sinTurn_half]

theorem low_sinTurn_odd_eighth {j : Nat} (h : j % 2 = 1) : low (sinTurn (j * 2 ^ 29)) = 0x3F3504F3 := by
  rw [sinTurn_eq, show fold (j * 2 ^ 29) = 2 ^ 29 by simp only [fold]; omega, low_signed (quarterSin_lt _),
    quarterSin_eighth]

theorem low_cosTurn_odd_eighth {j : Nat} (h : j % 2 = 1) : low (cosTurn (j * 2 ^ 29)) = 0x3F3504F3 := by
  rw [cosTurn, show j * 2 ^ 29 + 2 ^ 30 = (j + 2) * 2 ^ 29 by omega, low_sinTurn_odd_eighth (by omega)]

theorem sinTurn_quarter : sinTurn (2 ^ 30) = 0x3F800000#32 := by
  rw [sinTurn_eq, show fold (2 ^ 30) = 2 ^ 30 by decide, quarterSin_quarter]
  decide

theorem sinTurn_three_quarters : sinTurn (3 * 2 ^ 30) = 0xBF800000#32 := by
  rw [sinTurn_eq, show fold (3 * 2 ^ 30) = 2 ^ 30 by decide, quarterSin_quarter]
  decide

/-! ### The table -/

theorem twGen_fst (nu i : Nat) : (twGen nu i).1 = cosTurn (i * 2 ^ (32 - nu)) := rfl

theorem twGen_snd (nu i : Nat) : (twGen nu i).2 = sinTurn (i * 2 ^ (32 - nu)) := rfl

/-- The cosine is the sine a quarter turn on. -/
theorem twGen_of_angle {nu i t : Nat} (h : i * 2 ^ (32 - nu) = t) : twGen nu i = (sinTurn (t + 2 ^ 30), sinTurn t) := by
  rw [twGen, h, cosTurn]

/-- The nested tables agree (R125 P4). -/
theorem twGen_succ {nu : Nat} (h : nu + 1 ≤ 31) (i : Nat) : twGen (nu + 1) (2 * i) = twGen nu i := by
  have hangle : 2 * i * 2 ^ (32 - (nu + 1)) = i * 2 ^ (32 - nu) := by
    rw [show 32 - nu = 32 - (nu + 1) + 1 by omega, Nat.pow_succ]
    ring
  rw [twGen, twGen, hangle]

/-- An eighth of the table is an eighth of the turn. -/
theorem eighth_angle {nu : Nat} (h3 : 3 ≤ nu) (h31 : nu ≤ 31) (j : Nat) :
    j * 2 ^ (nu - 3) * 2 ^ (32 - nu) = j * 2 ^ 29 := by
  rw [Nat.mul_assoc, ← Nat.pow_add, show nu - 3 + (32 - nu) = 29 by omega]

end Sys2Proof.Machine.Twiddle

namespace Sys2Proof.Machine

open Twiddle

/-- Settles O13. -/
theorem twiddleSymmetries : Obligations.TwiddleSymmetries := by
  intro nu h2 h31
  have hN : 2 ^ nu = 4 * 2 ^ (nu - 2) := by
    rw [show nu = nu - 2 + 2 by omega, Nat.pow_add, Nat.add_sub_cancel, Nat.mul_comm]
  have hquarter : 2 ^ (nu - 2) * 2 ^ (32 - nu) = 2 ^ 30 := by
    rw [← Nat.pow_add, show nu - 2 + (32 - nu) = 30 by omega]
  have hhalf : 2 * 2 ^ (nu - 2) * 2 ^ (32 - nu) = 2 ^ 31 := by rw [Nat.mul_assoc, hquarter]; rfl
  have hturn : 2 ^ nu * 2 ^ (32 - nu) = 2 ^ 32 := by rw [← Nat.pow_add, Nat.add_sub_cancel' (by omega)]
  rw [show 2 ^ nu / 4 = 2 ^ (nu - 2) by omega, show 2 ^ nu / 2 = 2 * 2 ^ (nu - 2) by omega,
    show 3 * 2 ^ nu / 4 = 3 * 2 ^ (nu - 2) by omega]
  refine ⟨⟨?_, ?_, ?_, ?_⟩, fun i _ => ?_, fun i _ hi => ?_, fun i _ hnu => twGen_succ hnu i, fun j h3 hj _ => ?_⟩
  · rw [twGen_of_angle (Nat.zero_mul _), Nat.zero_add, sinTurn_quarter, sinTurn_of_dvd (by decide)]
  · rw [twGen_of_angle hquarter, sinTurn_quarter, sinTurn_of_dvd (by decide)]
  · rw [twGen_of_angle hhalf, show 2 ^ 31 + 2 ^ 30 = 3 * 2 ^ 30 by decide, sinTurn_three_quarters,
      sinTurn_of_dvd (by decide)]
  · rw [twGen_of_angle (t := 3 * 2 ^ 30) (by rw [Nat.mul_assoc, hquarter]), sinTurn_three_quarters,
      sinTurn_of_dvd (by decide)]
  · rw [twGen_fst, twGen_snd, Nat.add_mul, hquarter, cosTurn]
  · have hsum : (2 ^ nu - i) * 2 ^ (32 - nu) + i * 2 ^ (32 - nu) = 2 ^ 32 := by
      rw [← Nat.add_mul, Nat.sub_add_cancel hi.le, hturn]
    exact ⟨cosTurn_reflect hsum, units_sinTurn_reflect hsum⟩
  · rw [twGen_fst, twGen_snd, eighth_angle h3 h31]
    exact ⟨low_cosTurn_odd_eighth hj, low_sinTurn_odd_eighth hj⟩

end Sys2Proof.Machine
end

section
/-! PROOFS. What the butterflies of one stage do to the memory (41_worker.md R140, R150, R153). -/

namespace Sys2Proof.Machine

/-- The four elements of the legs `k1` and `k2` of buffer `h` hold `x`. -/
structure Memory.HoldsLegs (m : Memory) (h : Handle) (k1 k2 : Nat) (x : Legs) : Prop where
  real1 : m.readEl ⟨h, .real, k1⟩ = some x.real1
  imag1 : m.readEl ⟨h, .imag, k1⟩ = some x.imag1
  real2 : m.readEl ⟨h, .real, k2⟩ = some x.real2
  imag2 : m.readEl ⟨h, .imag, k2⟩ = some x.imag2

/-- A first leg lies in the lower half of its group, a second leg in the upper half. -/
theorem first_leg_ne_second {n2 k l : Nat} (hk : k % (2 * n2) < n2) (hl : l % (2 * n2) < n2) : k ≠ l + n2 := by
  rintro rfl
  have hsum : (l + n2) % (2 * n2) = l % (2 * n2) + n2 := by
    rw [Nat.add_mod, Nat.mod_eq_of_lt (show n2 < 2 * n2 by omega), Nat.mod_eq_of_lt (by omega)]
  omega

namespace Memory.HoldsLegs

variable {m : Memory} {h : Handle} {k1 k2 : Nat} {x : Legs}

/-- Legs below the length of a buffer hold something. -/
theorem exists_of_longEnough {size : Nat} (hlong : m.longEnough h size = true) (h1 : k1 < size) (h2 : k2 < size) :
    ∃ x, m.HoldsLegs h k1 k2 x := by
  obtain ⟨ar, hr1⟩ := Memory.readEl_of_longEnough hlong h1 .real
  obtain ⟨ai, hi1⟩ := Memory.readEl_of_longEnough hlong h1 .imag
  obtain ⟨br, hr2⟩ := Memory.readEl_of_longEnough hlong h2 .real
  obtain ⟨bi, hi2⟩ := Memory.readEl_of_longEnough hlong h2 .imag
  exact ⟨⟨ar, ai, br, bi⟩, hr1, hi1, hr2, hi2⟩

/-- Legs hold one thing at a time. -/
theorem unique {y : Legs} (hx : m.HoldsLegs h k1 k2 x) (hy : m.HoldsLegs h k1 k2 y) : x = y := by
  cases x
  cases y
  simp only [Legs.mk.injEq]
  exact ⟨Option.some_inj.mp (hx.real1.symm.trans hy.real1), Option.some_inj.mp (hx.imag1.symm.trans hy.imag1),
    Option.some_inj.mp (hx.real2.symm.trans hy.real2), Option.some_inj.mp (hx.imag2.symm.trans hy.imag2)⟩

/-- Legs that are read the same hold the same. -/
theorem congr {m' : Memory} (hx : m.HoldsLegs h k1 k2 x)
    (hread : ∀ b : Addr, b.idx = k1 ∨ b.idx = k2 → m'.readEl b = m.readEl b) : m'.HoldsLegs h k1 k2 x where
  real1 := (hread _ (.inl rfl)).trans hx.real1
  imag1 := (hread _ (.inl rfl)).trans hx.imag1
  real2 := (hread _ (.inr rfl)).trans hx.real2
  imag2 := (hread _ (.inr rfl)).trans hx.imag2

theorem writeLegs (hx : m.HoldsLegs h k1 k2 x) (hk : k1 ≠ k2) (r : Legs) :
    (writeLegs m h k1 k2 r).HoldsLegs h k1 k2 r := by
  obtain ⟨h1, h2, h3, h4⟩ := hx
  obtain ⟨g1, g2, g3, g4⟩ := readEl_writeLegs_legs (r := r) hk h1 h2 h3 h4
  exact ⟨g1, g2, g3, g4⟩

/-- A butterfly leaves the legs of another one of the stage alone. -/
theorem writeLegs_ne {n2 k l : Nat} {y : Legs} (hx : m.HoldsLegs h k (k + n2) x) (hy : m.HoldsLegs h l (l + n2) y)
    (hk : k % (2 * n2) < n2) (hl : l % (2 * n2) < n2) (hne : k ≠ l) (r : Legs) :
    (Machine.writeLegs m h k (k + n2) r).HoldsLegs h l (l + n2) y := by
  have hkl := first_leg_ne_second hk hl
  have hlk := first_leg_ne_second hl hk
  obtain ⟨h1, h2, h3, h4⟩ := hx
  exact hy.congr fun b hb => readEl_writeLegs_ne h1 h2 h3 h4 r (.inr (by omega))

end Memory.HoldsLegs

/-- The results of a butterfly on the values `x` of its legs, with the LUT entry `e` and NaNs numbered from `n` on. -/
def bflyResults (e : Sample × Sample) (n : Nat) (x : Legs) : Legs :=
  bflyLegs (fun j => nanDraw (n + j)) e.1 e.2 x.real1 x.imag1 x.real2 x.imag2

/-- The LUT entry of first leg `k` at shift count `nu1` (40_lut_bitrev.md R126). -/
def State.entry (s : State) (nu1 : Int) (k : Nat) : Sample × Sample :=
  (s.cosAt (twIndex s.nu k nu1), s.sinAt (twIndex s.nu k nu1))

/-- The memory `m'` is `m` after the butterflies of the first legs `ks`, span `n2`, on buffer `h`: each is applied to the
values that its legs hold in `m`, with the LUT entries `e` and NaNs numbered from `n` on. -/
structure AppliesBflies (e : Nat → Sample × Sample) (h : Handle) (n2 n : Nat) (ks : List Nat) (m m' : Memory) : Prop where
  legs : ∀ (j k : Nat) (x : Legs), ks[j]? = some k → m.HoldsLegs h k (k + n2) x →
    m'.HoldsLegs h k (k + n2) (bflyResults (e k) (n + 10 * j) x)
  others : ∀ b : Addr, b.handle ≠ h ∨ (∀ k ∈ ks, b.idx ≠ k ∧ b.idx ≠ k + n2) → m'.readEl b = m.readEl b
  lengths : ∀ (g : Handle) (size : Nat), m'.longEnough g size = m.longEnough g size

theorem AppliesBflies.nil (e : Nat → Sample × Sample) (h : Handle) (n2 n : Nat) (m : Memory) :
    AppliesBflies e h n2 n [] m m := ⟨fun _ _ _ hk => by simp at hk, fun _ _ => rfl, fun _ _ => rfl⟩

/-- The butterflies of a stage leave the legs of another one of the stage alone. -/
theorem AppliesBflies.holdsLegs_of_not_mem {e : Nat → Sample × Sample} {h : Handle} {n2 n l : Nat} {ks : List Nat}
    {m m' : Memory} {y : Legs} (hm' : AppliesBflies e h n2 n ks m m') (hks : ∀ k ∈ ks, k % (2 * n2) < n2)
    (hl : l % (2 * n2) < n2) (hnot : l ∉ ks) (hy : m.HoldsLegs h l (l + n2) y) : m'.HoldsLegs h l (l + n2) y := by
  refine hy.congr fun b hb => hm'.others b (.inr fun k hk => ?_)
  have hkl := first_leg_ne_second (hks k hk) hl
  have hlk := first_leg_ne_second hl (hks k hk)
  have hne : l ≠ k := fun heq => hnot (heq ▸ hk)
  omega

/-- A butterfly on legs that the others do not touch, and then the others. -/
theorem AppliesBflies.cons {e : Nat → Sample × Sample} {h : Handle} {n2 n k : Nat} {ks : List Nat} {m m' : Memory}
    {x : Legs} (hx : m.HoldsLegs h k (k + n2) x) (hfirst : ∀ l ∈ k :: ks, l % (2 * n2) < n2) (hk : k ∉ ks)
    (hm' : AppliesBflies e h n2 (n + 10) ks (writeLegs m h k (k + n2) (bflyResults (e k) n x)) m') :
    AppliesBflies e h n2 n (k :: ks) m m' := by
  obtain ⟨hkfirst, hks⟩ := List.forall_mem_cons.mp hfirst
  obtain ⟨h1, h2, h3, h4⟩ := id hx
  refine ⟨fun j l y hj hy => ?_, fun b hb => ?_, fun g size => ?_⟩
  · cases j with
    | zero =>
      obtain rfl : k = l := by simpa using hj
      obtain rfl := hx.unique hy
      exact hm'.holdsLegs_of_not_mem hks hkfirst hk (hx.writeLegs (by omega) _)
    | succ j =>
      rw [List.getElem?_cons_succ] at hj
      have hl := List.mem_of_getElem? hj
      rw [show n + 10 * (j + 1) = n + 10 + 10 * j by omega]
      exact hm'.legs j l y hj (hx.writeLegs_ne hy hkfirst (hks l hl) (fun heq => hk (heq ▸ hl)) _)
  · rw [List.forall_mem_cons] at hb
    exact (hm'.others b (hb.imp_right And.right)).trans
      (readEl_writeLegs_ne h1 h2 h3 h4 _ (hb.imp_right And.left))
  · exact (hm'.lengths g size).trans (longEnough_writeLegs h1 h2 h3 h4 _ g size)

/-! ### The worker at its work -/

/-- Worker `w` has come to the descriptor `d`, the memory `m` and the draw `n`. -/
def State.workedTo (s : State) (w : Nat) (d : Worker) (m : Memory) (n : Nat) : State :=
  { s.setWorker w d with mem := m, draws := n }

section
variable (s : State) (w : Nat) (d d' : Worker) (m m' : Memory) (n n' : Nat)

@[simp] theorem State.worker_workedTo_self : (s.workedTo w d m n).worker w = d := State.worker_setWorker_self ..

theorem State.worker_workedTo_ne {v : Nat} (hv : v ≠ w) : (s.workedTo w d m n).worker v = s.worker v :=
  State.worker_setWorker_ne _ _ hv.symm

@[simp] theorem State.workedTo_setWorker : (s.setWorker w d).workedTo w d' m n = s.workedTo w d' m n := by
  simp [State.workedTo]

@[simp] theorem State.workedTo_workedTo :
    (s.workedTo w d m n).workedTo w d' m' n' = s.workedTo w d' m' n' := by
  simp [State.workedTo, State.setWorker]

end

section
variable {s : State} {w : Nat} {d : Worker} {m : Memory} {n : Nat}

theorem State.setTodo_workedTo (l : List Work) :
    (s.workedTo w d m n).setTodo w l = s.workedTo w { d with todo := l } m n := by
  rw [State.setTodo, State.worker_workedTo_self]
  exact State.workedTo_workedTo ..

theorem doWork_endStage_workedTo : doWork w .endStage (s.workedTo w d m n) = .next (s.workedTo w d.endStage m n) := by
  rw [doWork, State.worker_workedTo_self]
  exact congrArg _ (State.workedTo_workedTo ..)

/-- A butterfly on legs that hold `x`. -/
theorem doWork_bfly_workedTo {k : Nat} {x : Legs} (hx : m.HoldsLegs d.buf k (k + d.n2) x) :
    doWork w (.bfly k) (s.workedTo w d m n) = .next (s.workedTo w d
      (writeLegs m d.buf k (k + d.n2) (bflyResults (s.entry d.nu1 k) n x)) (n + 10)) := by
  have hd := s.worker_workedTo_self w d m n
  obtain ⟨h1, h2, h3, h4⟩ := hx
  refine (bfly_eq (s := s.workedTo w d m n) (w := w) (by rwa [hd]) (by rwa [hd]) (by rwa [hd]) (by rwa [hd])).trans ?_
  rw [State.legsOf, hd]
  rfl

end

/-- The butterflies of one stage, on a worker that holds its descriptor, and then the end of the stage. -/
theorem runWork_stageWork {s : State} {w : Nat} {d : Worker} {m : Memory} {n : Nat} {ks : List Nat}
    (hex : ∀ k ∈ ks, ∃ x, m.HoldsLegs d.buf k (k + d.n2) x) (hfirst : ∀ k ∈ ks, k % (2 * d.n2) < d.n2)
    (hnodup : ks.Nodup) (l : List Work) :
    ∃ m', AppliesBflies (s.entry d.nu1) d.buf d.n2 n ks m m' ∧
      runWork w (stageWork ks ++ l) (s.workedTo w d m n) =
        runWork w l (s.workedTo w { d.endStage with todo := l } m' (n + 10 * ks.length)) := by
  induction ks generalizing d m n with
  | nil =>
    refine ⟨m, .nil .., ?_⟩
    rw [stageWork, List.map_nil, List.nil_append, List.singleton_append, runWork_cons, State.setTodo_workedTo,
      doWork_endStage_workedTo, andThen_next]
    rfl
  | cons k ks ih =>
    obtain ⟨hk, hnodup⟩ := List.nodup_cons.mp hnodup
    obtain ⟨⟨x, hx⟩, hexks⟩ := List.forall_mem_cons.mp hex
    obtain ⟨hkfirst, hks⟩ := List.forall_mem_cons.mp hfirst
    obtain ⟨m', happlies, hrun⟩ := ih (d := { d with todo := stageWork ks ++ l }) (n := n + 10)
      (m := writeLegs m d.buf k (k + d.n2) (bflyResults (s.entry d.nu1 k) n x))
      (fun l hl => (hexks l hl).imp fun y hy =>
        hx.writeLegs_ne hy hkfirst (hks l hl) (fun heq => hk (heq ▸ hl)) _) hks hnodup
    refine ⟨m', .cons hx hfirst hk happlies, ?_⟩
    rw [show stageWork (k :: ks) ++ l = .bfly k :: (stageWork ks ++ l) from rfl, runWork_cons, State.setTodo_workedTo,
      doWork_bfly_workedTo (d := { d with todo := stageWork ks ++ l }) hx, andThen_next, List.length_cons, Nat.mul_succ, ← Nat.add_assoc, Nat.add_right_comm]
    exact hrun

end Sys2Proof.Machine
end

section
/-! PROOFS. STRIDED as a whole (41_worker.md R150 to R152, R156). -/

namespace Sys2Proof.Machine

/-- The first legs of a worker in a STRIDED round are in the lower halves of their groups, both legs below `N`. -/
theorem stridedLegs_legal {size nt n2 m nu w k : Nat} (hw : w < nt) (hsize : size = 2 ^ nu) (hn2 : n2 = 2 ^ m) (hm : m < nu)
    (hk : k ∈ stridedLegs size nt n2 w) : k % (2 * n2) < n2 ∧ k < size ∧ k + n2 < size := by
  subst hsize hn2
  have hdvd := two_mul_two_pow_dvd hm
  obtain ⟨hlt, hfirst, -⟩ := (mem_stridedLegs_iff hw hdvd (Nat.two_pow_pos m)).mp hk
  exact ⟨hfirst, hlt, second_leg_lt hlt hdvd hfirst⟩

/-- STRIDED on a legal worker: its butterflies, the end of the stage, and the report. -/
theorem exec_strided_next {s : State} {init : Bool} {buf : Handle} {d : Worker} (hcount : workerCountOk s.nu s.nt = true)
    (hacting : s.acting < s.nt) (hd : d = stridedDescriptor init buf s.nu (s.worker s.acting))
    (hspan : d.n2 = 0 ∨ ∃ m, d.n2 = 2 ^ m ∧ m < s.nu ∧ s.mem.longEnough d.buf s.size = true) :
    ∃ m', AppliesBflies (s.entry d.nu1) d.buf d.n2 s.draws (stridedLegs s.size s.nt d.n2 s.acting) s.mem m' ∧
      exec (.strided init buf) s = .next ((s.workedTo s.acting { d.endStage with run := .running, todo := [] } m'
        (s.draws + 10 * (stridedLegs s.size s.nt d.n2 s.acting).length)).sendAck s.acting) := by
  have hlegs : ∀ k ∈ stridedLegs s.size s.nt d.n2 s.acting,
      (∃ x, s.mem.HoldsLegs d.buf k (k + d.n2) x) ∧ k % (2 * d.n2) < d.n2 := fun k hk => by
    obtain hzero | ⟨m, hn2, hm, hlong⟩ := hspan
    · simp [hzero] at hk
    · obtain ⟨hfirst, h1, h2⟩ := stridedLegs_legal hacting rfl hn2 hm hk
      exact ⟨Memory.HoldsLegs.exists_of_longEnough hlong h1 h2, hfirst⟩
  obtain ⟨m', happlies, hrun⟩ := runWork_stageWork (s := s) (w := s.acting) (n := s.draws)
    (d := { d with run := .running, todo := stageWork (stridedLegs s.size s.nt d.n2 s.acting) })
    (fun k hk => (hlegs k hk).1) (fun k hk => (hlegs k hk).2) (nodup_stridedLegs (nt_pos_of_workerCountOk hcount)) []
  refine ⟨m', happlies, ?_⟩
  rw [List.append_nil] at hrun
  show andThen (receiveStrided s.acting init buf s) (finishCommand s.acting) = _
  rw [receiveStrided_ok hcount, ← hd, andThen_next, finishCommand, State.beginWork, State.worker_setWorker_self]
  exact (congrArg (andThen · _) hrun).trans rfl

/-- Settles O21. -/
theorem stridedCompletes : Obligations.StridedCompletes := by
  intro s init buf d m hcount hacting hd hspan
  obtain ⟨m', happlies, hexec⟩ := exec_strided_next hcount hacting hd (hspan.imp_right fun h => ⟨m, h⟩)
  refine ⟨_, hexec, rfl, ?_, fun v hv => ?_, happlies.others⟩
  · rw [State.worker_sendAck_self, State.worker_workedTo_self]
    rfl
  · rw [State.worker_sendAck_ne _ hv.symm, State.worker_workedTo_ne _ _ _ _ _ hv]

/-- Settles O22. -/
theorem stridedAppliesEachButterflyOnce : Obligations.StridedAppliesEachButterflyOnce := by
  intro s t init buf d m j k ar ai br bi hcount hacting hd hn2 hm hlong hexec hk h1 h2 h3 h4
  obtain ⟨m', happlies, hnext⟩ := exec_strided_next hcount hacting hd (.inr ⟨m, hn2, hm, hlong⟩)
  obtain rfl := Host.Outcome.next.inj (hexec.symm.trans hnext)
  obtain ⟨g1, g2, g3, g4⟩ := happlies.legs j k ⟨ar, ai, br, bi⟩ hk ⟨h1, h2, h3, h4⟩
  exact ⟨g1, g2, g3, g4⟩

end Sys2Proof.Machine
end

section
/-! PROOFS. LOCAL as a whole (41_worker.md R153 to R156). -/

namespace Sys2Proof.Machine

/-- A worker after `c` stages, the last of which has no stage behind it. -/
def Worker.afterStages (d : Worker) (c : Nat) : Worker :=
  { d with nu1 := d.nu1 - c, n2 := 0, stagesCompleted := d.stagesCompleted + c, todo := [] }

theorem Worker.afterStages_zero {d : Worker} (hn2 : d.n2 = 0) (htodo : d.todo = []) : d.afterStages 0 = d := by
  obtain ⟨nu1, n2, stagesCompleted, buf, run, todo⟩ := d
  obtain rfl : n2 = 0 := hn2
  obtain rfl : todo = [] := htodo
  simp [Worker.afterStages]

theorem Worker.afterStages_endStage (d : Worker) (l : List Work) (c : Nat) :
    Worker.afterStages { d.endStage with todo := l } c = d.afterStages (c + 1) := by
  simp only [Worker.afterStages, Worker.endStage, Worker.mk.injEq, and_true, true_and]
  omega

theorem ceilDiv_mul {n c : Nat} (hn : 0 < n) : ceilDiv (n * c) n = c := by
  rw [ceilDiv, Nat.add_sub_assoc hn, Nat.mul_add_div hn, Nat.div_eq_of_lt (by omega), Nat.add_zero]

/-- Every stage of a block has half as many butterflies as the block has elements. -/
theorem length_blockLegs {base half n : Nat} (hn : 0 < n) (hdvd : n ∣ half) :
    (blockLegs base (2 * half) n).length = half := by
  obtain ⟨c, rfl⟩ := hdvd
  rw [blockLegs, ← Nat.mul_assoc, ceilDiv_mul (by omega)]
  simp [List.length_flatMap, Nat.mul_comm]

/-- The first legs of a block are in the lower halves of their groups, both legs inside the block. -/
theorem blockLegs_legal {block n w k : Nat} (hdvd : 2 * n ∣ block) (hn : 0 < n) (hpos : 0 < block)
    (hk : k ∈ blockLegs (w * block) block n) :
    k % (2 * n) < n ∧ w * block ≤ k ∧ k + n < (w + 1) * block := by
  obtain ⟨rfl, hfirst⟩ := (mem_blockLegs_iff hdvd hn hpos).mp hk
  exact ⟨hfirst, Nat.div_mul_le_self _ _,
    second_leg_lt (Nat.lt_mul_of_div_lt (Nat.lt_succ_self _) hpos) (hdvd.mul_left _) hfirst⟩

/-- The memory `m` and then those of `mems`. -/
def memoryThen (m : Memory) (mems : Nat → Memory) : Nat → Memory
  | 0 => m
  | i + 1 => mems i

section
variable {s : State} {w half size : Nat}

/-- `c` stages of LOCAL, the last of span 1, on the block of `2 * half` elements of worker `w`: the memories between them,
and what the worker comes to. -/
theorem runWork_localStages (hhalf : 0 < half) (hblock : (w + 1) * (2 * half) ≤ size) {c fuel : Nat} (hfuel : c ≤ fuel)
    (hdvd : 2 ^ c ∣ 2 * half) {d : Worker} {m : Memory} {n : Nat} (hn2 : d.n2 = 2 ^ c / 2)
    (htodo : d.todo = localStages (w * (2 * half)) (2 * half) fuel d.n2) (hlong : m.longEnough d.buf size = true) :
    ∃ mems : Nat → Memory, mems 0 = m ∧
      runWork w d.todo (s.workedTo w d m n) = .next (s.workedTo w (d.afterStages c) (mems c) (n + 10 * (c * half))) ∧
      ∀ i < c, AppliesBflies (s.entry (d.nu1 - i)) d.buf (2 ^ (c - i) / 2) (n + 10 * (i * half))
        (blockLegs (w * (2 * half)) (2 * half) (2 ^ (c - i) / 2)) (mems i) (mems (i + 1)) := by
  induction c generalizing fuel d m n with
  | zero =>
    have hzero : d.n2 = 0 := hn2
    have hnil : d.todo = [] := by rw [htodo, hzero, localStages_zero_span]
    refine ⟨fun _ => m, rfl, ?_, fun i hi => absurd hi (Nat.not_lt_zero i)⟩
    rw [hnil, Worker.afterStages_zero hzero hnil, Nat.zero_mul]
    rfl
  | succ c ih =>
    obtain ⟨fuel, rfl⟩ : ∃ f, fuel = f + 1 := ⟨fuel - 1, by omega⟩
    rw [two_pow_succ_half] at hn2
    have hpos : 0 < 2 ^ c := Nat.two_pow_pos c
    have hgroups : 2 * 2 ^ c ∣ 2 * half := by rwa [← Nat.pow_succ']
    have hlen : (blockLegs (w * (2 * half)) (2 * half) d.n2).length = half :=
      length_blockLegs (hn2 ▸ hpos) (hn2 ▸ Nat.dvd_of_mul_dvd_mul_left two_pos hgroups)
    rw [localStages_succ (hn2 ▸ hpos.ne')] at htodo
    have hlegal : ∀ k ∈ blockLegs (w * (2 * half)) (2 * half) d.n2,
        k % (2 * d.n2) < d.n2 ∧ k + d.n2 < size := fun k hk => by
      obtain ⟨hfirst, -, hlt⟩ := blockLegs_legal (by rwa [hn2]) (by rwa [hn2]) (by omega) hk
      exact ⟨hfirst, by omega⟩
    obtain ⟨m1, happlies, hrun⟩ := runWork_stageWork (s := s) (w := w) (d := d) (m := m) (n := n)
      (fun k hk => Memory.HoldsLegs.exists_of_longEnough hlong (by have := (hlegal k hk).2; omega) (hlegal k hk).2)
      (fun k hk => (hlegal k hk).1) nodup_blockLegs (localStages (w * (2 * half)) (2 * half) fuel (d.n2 / 2))
    obtain ⟨mems, hfirst, hrest, hstages⟩ := ih (fuel := fuel) (m := m1) (n := n + 10 * half)
      (d := { d.endStage with todo := localStages (w * (2 * half)) (2 * half) fuel (d.n2 / 2) })
      (by omega) ((dvd_mul_left _ _).trans hgroups) (congrArg (· / 2) hn2) rfl ((happlies.lengths _ _).trans hlong)
    refine ⟨memoryThen m mems, rfl, ?_, fun i hi => ?_⟩
    · rw [htodo, hrun, hlen, hrest, Worker.afterStages_endStage,
        show n + 10 * half + 10 * (c * half) = n + 10 * ((c + 1) * half) by ring]
      rfl
    · cases i with
      | zero =>
        rw [show c + 1 - 0 = c + 1 by rfl, two_pow_succ_half, ← hn2, Nat.zero_mul]
        simpa [memoryThen, hfirst] using happlies
      | succ i =>
        have hstage := hstages i (by omega)
        rw [show n + 10 * half + 10 * (i * half) = n + 10 * ((i + 1) * half) by ring] at hstage
        rw [show c + 1 - (i + 1) = c - i by omega, show d.nu1 - ((i + 1 : Nat) : Int) = d.nu1 - 1 - i by omega]
        exact hstage

end

/-- LOCAL on a worker that holds span `2^m`: the memories between its stages, the stages, and the report. -/
theorem exec_local_next {s : State} {m : Nat} (hcount : workerCountOk s.nu s.nt = true)
    (hn2 : (s.worker s.acting).n2 = 2 ^ m) (hblock : (s.acting + 1) * (2 * 2 ^ m) ≤ s.size)
    (hlong : s.mem.longEnough (s.worker s.acting).buf s.size = true) :
    ∃ mems : Nat → Memory, mems 0 = s.mem ∧
      exec .localRemainder s = .next ((s.workedTo s.acting
        { (s.worker s.acting).afterStages (m + 1) with run := .running } (mems (m + 1))
        (s.draws + 10 * ((m + 1) * 2 ^ m))).sendAck s.acting) ∧
      ∀ q ≤ m, AppliesBflies (s.entry ((s.worker s.acting).nu1 - q)) (s.worker s.acting).buf (2 ^ (m - q))
        (s.draws + 10 * (q * 2 ^ m)) (blockLegs (s.acting * (2 * 2 ^ m)) (2 * 2 ^ m) (2 ^ (m - q))) (mems q)
        (mems (q + 1)) := by
  obtain ⟨mems, hzero, hrun, hstages⟩ := runWork_localStages (s := s) (w := s.acting) (half := 2 ^ m) (size := s.size)
    (c := m + 1) (fuel := 2 ^ m) (m := s.mem) (n := s.draws)
    (d := { s.worker s.acting with run := .running, todo := localWork s.acting (s.worker s.acting).n2 })
    (Nat.two_pow_pos m) hblock Nat.lt_two_pow_self (Nat.pow_succ' ▸ dvd_rfl) (hn2.trans (two_pow_succ_half m).symm)
    (by rw [hn2, localWork_two_pow]) hlong
  refine ⟨mems, hzero, ?_, fun q hq => ?_⟩
  · show andThen (receiveLocal s.acting s) (finishCommand s.acting) = _
    rw [receiveLocal_ok hcount, andThen_next, finishCommand, State.beginWork, State.worker_setWorker_self]
    exact (congrArg (andThen · _) hrun).trans rfl
  · have hstage := hstages q (by omega)
    rwa [Nat.succ_sub hq, two_pow_succ_half] at hstage

/-- LOCAL on a worker whose stages are all done reports, and that is all (log 30). -/
theorem exec_local_zero_span {s : State} (hcount : workerCountOk s.nu s.nt = true) (hn2 : (s.worker s.acting).n2 = 0) :
    exec .localRemainder s = .next ((s.setWorker s.acting
      { s.worker s.acting with run := .running, todo := [] }).sendAck s.acting) := by
  show andThen (receiveLocal s.acting s) (finishCommand s.acting) = _
  rw [receiveLocal_ok hcount, hn2, localWork, localStages_zero_span, andThen_next, finishCommand, State.beginWork,
    State.worker_setWorker_self]
  rfl

/-- A stage of LOCAL touches nothing outside the block. -/
theorem AppliesBflies.outside_block {e : Nat → Sample × Sample} {h : Handle} {block n2 n w : Nat} {m m' : Memory}
    (ha : AppliesBflies e h n2 n (blockLegs (w * block) block n2) m m') (hdvd : 2 * n2 ∣ block) (hn2 : 0 < n2)
    (hpos : 0 < block) {b : Addr} (hb : b.handle ≠ h ∨ b.idx < w * block ∨ (w + 1) * block ≤ b.idx) :
    m'.readEl b = m.readEl b :=
  ha.others b (hb.imp_right fun _ k hk => by
    have hlegal := blockLegs_legal hdvd hn2 hpos hk
    omega)

theorem two_mul_two_pow_sub_dvd (m q : Nat) : 2 * 2 ^ (m - q) ∣ 2 * 2 ^ m :=
  Nat.mul_dvd_mul_left 2 (pow_dvd_pow 2 (Nat.sub_le m q))

/-- Settles O25. -/
theorem localCompletes : Obligations.LocalCompletes := by
  rintro s _ hcount - rfl
  refine ⟨fun hn2 => ?_, fun m hn2 hblock hlong => ?_⟩
  · refine ⟨_, exec_local_zero_span hcount hn2, rfl, ?_, fun v hv => ?_⟩
    · rw [State.worker_sendAck_self, State.worker_setWorker_self]
    · rw [State.worker_sendAck_ne _ hv.symm, State.worker_setWorker_ne _ _ hv.symm]
  · obtain ⟨mems, hzero, hexec, hstages⟩ := exec_local_next hcount hn2 hblock hlong
    refine ⟨_, hexec, rfl, ?_, fun v hv => ?_, fun b hb => ?_⟩
    · rw [State.worker_sendAck_self, State.worker_workedTo_self]
      simp [Worker.afterStages]
    · rw [State.worker_sendAck_ne _ hv.symm, State.worker_workedTo_ne _ _ _ _ _ hv]
    · have hframe : ∀ q, q ≤ m + 1 → (mems q).readEl b = s.mem.readEl b := fun q hq => by
        induction q with
        | zero => rw [hzero]
        | succ q ih =>
          exact ((hstages q (by omega)).outside_block (two_mul_two_pow_sub_dvd m q) (Nat.two_pow_pos _)
            (by positivity) hb).trans (ih (by omega))
      exact hframe (m + 1) le_rfl

/-- Settles O26. -/
theorem localRunsAllStages : Obligations.LocalRunsAllStages := by
  rintro s t _ m hcount - rfl hn2 hblock hlong hexec
  obtain ⟨mems, hzero, hnext, hstages⟩ := exec_local_next hcount hn2 hblock hlong
  obtain rfl := Host.Outcome.next.inj (hexec.symm.trans hnext)
  refine ⟨mems, hzero, rfl, fun q hq => ⟨fun k hlow hhigh hbit ar ai br bi h1 h2 h3 h4 => ?_, fun b hb => ?_⟩⟩
  · have hk : k ∈ blockLegs (s.acting * (2 * 2 ^ m)) (2 * 2 ^ m) (2 ^ (m - q)) :=
      (mem_blockLegs_iff (two_mul_two_pow_sub_dvd m q) (Nat.two_pow_pos _) (by positivity)).mpr
        ⟨Nat.div_eq_of_lt_le hlow hhigh, testBit_eq_false_iff_mod_lt.mp hbit⟩
    obtain ⟨j, hj⟩ := List.mem_iff_getElem?.mp hk
    obtain ⟨g1, g2, g3, g4⟩ := (hstages q hq).legs j k ⟨ar, ai, br, bi⟩ hj ⟨h1, h2, h3, h4⟩
    exact ⟨_, fun i => isNaN_nanDraw _, g1, g2, g3, g4⟩
  · exact (hstages q hq).outside_block (two_mul_two_pow_sub_dvd m q) (Nat.two_pow_pos _) (by positivity) hb

end Sys2Proof.Machine
end
